-- ==== Sys2Proof/Word.lean ====
section
/-!
DEFINITION. The word types of the rescue CORE codec block and the plainest arithmetic on them
(spec/00_scope.md rules R7, R10; spec/30_encoding.md rule R81).
-/

namespace Sys2Proof

/-- A command word, payload word, response word or result word: 32 bits (R7, R80 to R83). -/
abbrev Word := BitVec 32

/-- An 8-bit quantity: the status code and the fault code (R83, R33), a byte of the CRC (R196). -/
abbrev Byte := BitVec 8

/-- `low(v, n)` of R10: `v mod 2^n`, so that `low(v, 0) = 0`. -/
def low (v n : Nat) : Nat := v % 2 ^ n

/-- `ceil(a / b)` of R10, the least integer not below `a / b`; used with `b` at least 1 only. -/
def ceilDiv (a b : Nat) : Nat := (a + b - 1) / b

/-- `zext_32(v)` of R10 and R82: an integer as a data word. -/
def toWord (v : Nat) : Word := BitVec.ofNat 32 v

/-- The phase register `CHK.PH` of R28: `FIRST`, no byte taken yet; `LO`, the next byte is the low
byte of a pair; `HI`, a low byte is held in `CHK.PEND`. -/
inductive ChkPhase where
  | first
  | lo
  | hi
  deriving DecidableEq, Repr, Inhabited

end Sys2Proof
end

