-- ==== Sys2Proof/Config.lean ====
section
/-!
DEFINITION. What is fixed for the life of the block (spec/00_scope.md rule R7): the numeric parameters
with their values, the parameters the spec leaves OPEN (`PERM`, `MAXLEN` and the host's `translit`) as
opaque constants that nothing can evaluate, and the free values that stand for what the spec calls
unspecified (spec/93_implementation_defined.md U1, U2).
-/

namespace Sys2Proof
namespace Config

/-- `NSYM`, the number of positions of a password and of the permutation (R7). -/
def nsym : Nat := 30

/-- `SYMW`, the width of one password digit (R7). -/
def symw : Nat := 6

/-- `RAWLEN`, the bytes in the buffer of a full password (R7, R122). -/
def rawLen : Nat := 23

/-- `WMAX`, the largest bit count of one read or write and the largest digit width (R7, D6). -/
def wmax : Nat := 32

/-- `BIG` of the Generator (R150). -/
def big : Nat := 0x7FFFFFFF

/-- `SEED_BASE` of the Generator (R150). -/
def seedBase : Nat := 0x9A4EC86

/-- The reflected CRC32 polynomial of R195; the spec marks it "from general knowledge, not in source"
(93_implementation_defined.md G1). PRESUMED, log entry 5. -/
def crcPoly : Word := 0xEDB88320#32

/-- `PERM`, the permutation table (R30, R140): `PERM[i]` is `perm i`. OPEN in the spec (P1): a bijection on
the 30 positions, which is what the type says, and nothing else is known of it. Log entry 2. -/
opaque perm : Equiv.Perm (Fin 30)

/-- How far `MAXLEN` lies above 256, or `none` for an unbounded block. OPEN in the spec (P2). Log entry 3. -/
opaque maxLenAbove256 : Option Nat

/-- `MAXLEN` (R7, P2): at least 256, or unbounded (`none`). -/
def maxLen : Option Nat := maxLenAbove256.map (256 + ·)

/-- `L > MAXLEN`. The first conjunct says what the constraint on `MAXLEN` gives: a sequence of at most 256
elements never exceeds it. `exceedsMaxLen_iff` in Laws/Config.lean says that this is exactly `L > MAXLEN`. -/
def exceedsMaxLen (len : Nat) : Bool :=
  decide (256 < len) && (match maxLen with
    | none => false
    | some m => decide (m < len))

/-- The open part of `translit`: any function of the digits. Log entry 4. -/
opaque translitBytes : List Nat → List Byte

/-- `translit` (R247, P3): the UTF-8 bytes of the display characters of a password in wire order. An OPEN function of
the host, no parameter of the block. All that is known of it is that it fits `MAXLEN`, as every sequence of the pipeline
does (P2, R250): the functions that fit are exactly those of this form. DEDUCED, log entry 4. -/
def translit (wire : List Nat) : List Byte :=
  match maxLen with
  | none => translitBytes wire
  | some m => (translitBytes wire).take m

/-- The registers whose contents the spec leaves unspecified while their unit's `VALID` flag is 0 (R37, U1, U2). -/
inductive OpenReg where
  | rdSw | rdSrc | rdLen | rdPos | rdAcc | rdCnt
  | wrDw | wrAcc | wrCnt | wrOut
  | genS | genI1 | genI2
  | chkSum | chkPh | chkPend
  | crcR
  deriving DecidableEq, Repr

/-- FREE VALUE: what an integer register holds after it became unspecified for the `draw`-th time.
Log entry 1. -/
opaque freeNat (draw : Nat) (r : OpenReg) : Nat

/-- FREE VALUE: what a sequence register (`RD.SRC`, `WR.OUT`) holds after it became unspecified. Log entry 1. -/
opaque freeWords (draw : Nat) (r : OpenReg) : List Word

/-- FREE VALUE: what `CRC.R` holds after it became unspecified. Log entry 1. -/
opaque freeWord (draw : Nat) (r : OpenReg) : Word

/-- FREE VALUE: what `GEN.S` holds after it became unspecified. Log entry 1. -/
opaque freeEntries (draw : Nat) : Vector Nat 56

/-- FREE VALUE: what `CHK.PH` holds after it became unspecified. Log entry 1. -/
opaque freePhase (draw : Nat) : ChkPhase

end Config
end Sys2Proof
end

