-- ==== Sys2Proof/Syntax.lean ====
section
/-!
DEFINITION. The 23 operations of the block (spec/30_encoding.md rule R86), one constructor each, in the order of
the operation map. An operation carries the small operands of its command word; its payload travels beside the
command word, in the transaction (R80, R82), and is read from the state.
-/

namespace Sys2Proof

/-- The operations of R86. Counts, widths, seeds and bytes are unsigned integers taken as they stand (R87). -/
inductive Instr where
  /-- `STAT` (R210). -/
  | stat
  /-- `RD.LOAD sw, digits` (R110). -/
  | rdLoad (sw : Nat)
  /-- `RD.READ n` (R112). -/
  | rdRead (n : Nat)
  /-- `RD.REM` (R114). -/
  | rdRem
  /-- `WR.INIT dw` (R116). -/
  | wrInit (dw : Nat)
  /-- `WR.WRITE n, value` (R118). -/
  | wrWrite (n : Nat)
  /-- `WR.FIN` (R120). -/
  | wrFin
  /-- `BITPACK sw, dw, digits` (R121). -/
  | bitpack (sw dw : Nat)
  /-- `SHUF code` (R141). -/
  | shuf
  /-- `UNSHUF code` (R142). -/
  | unshuf
  /-- `GEN.SEED seed` (R151). -/
  | genSeed (seed : Nat)
  /-- `GEN.NEXT` (R156). -/
  | genNext
  /-- `CIPH.DEC buffer` (R171). -/
  | ciphDec
  /-- `CIPH.ENC buffer` (R172). -/
  | ciphEnc
  /-- `CHK.INIT` (R184). -/
  | chkInit
  /-- `CHK.UPD byte` (R185). -/
  | chkUpd (byte : Nat)
  /-- `CHK.FIN` (R186). -/
  | chkFin
  /-- `CHKSUM code` (R188). -/
  | chksum
  /-- `CRC.INIT` (R197). -/
  | crcInit
  /-- `CRC.UPD byte` (R198). -/
  | crcUpd (byte : Nat)
  /-- `CRC.FIN` (R199). -/
  | crcFin
  /-- `CRC32 bytes` (R200). -/
  | crc32
  /-- `REVIVE bytes` (R201). -/
  | revive
  deriving DecidableEq, Repr

end Sys2Proof
end

