-- ==== Sys2Proof/WellFormed.lean ====
section
/-!
DEFINITION. Which terms of `Instr` are operations a command word can carry: every small operand fits its field
(spec/30_encoding.md rules R81, R87). An operand that fits its field and lies outside the range the operation admits
(a width of 0, a bit count of 33) IS well formed: the block decodes it and refuses it with `BAD_WIDTH` (R260).
-/

namespace Sys2Proof

/-- An operand of one 8-bit field `A`, `B` or `C` (R81). -/
abbrev FitsByteField (v : Nat) : Prop := v < 256

/-- The 16-bit immediate of `GEN.SEED`, the fields `B` and `C` together (R87). -/
abbrev FitsSeedField (v : Nat) : Prop := v < 65536

/-- Every operand of the operation fits its field. -/
def Instr.wellFormed : Instr → Bool
  | .stat => true
  | .rdLoad sw => decide (FitsByteField sw)
  | .rdRead n => decide (FitsByteField n)
  | .rdRem => true
  | .wrInit dw => decide (FitsByteField dw)
  | .wrWrite n => decide (FitsByteField n)
  | .wrFin => true
  | .bitpack sw dw => decide (FitsByteField sw) && decide (FitsByteField dw)
  | .shuf => true
  | .unshuf => true
  | .genSeed seed => decide (FitsSeedField seed)
  | .genNext => true
  | .ciphDec => true
  | .ciphEnc => true
  | .chkInit => true
  | .chkUpd byte => decide (FitsByteField byte)
  | .chkFin => true
  | .chksum => true
  | .crcInit => true
  | .crcUpd byte => decide (FitsByteField byte)
  | .crcFin => true
  | .crc32 => true
  | .revive => true

/-- `Instr.wellFormed` as a proposition. -/
abbrev Instr.WellFormed (i : Instr) : Prop := i.wellFormed = true

end Sys2Proof
end

