-- ==== Sys2Proof/Decode.lean ====
section
/-!
DEFINITION. The command word: its four fields (spec/30_encoding.md rule R81), the total decoder (R85, R86, R88), the
encoder written from the same rules, and the operation map of R86 as match and mask.
-/

namespace Sys2Proof

/-- `w[hi:lo]` of R10. -/
def bitsOf (w : Word) (hi lo : Nat) : Nat := w.toNat / 2 ^ lo % 2 ^ (hi - lo + 1)

/-- `OPC`, bits 31:24 (R81). -/
def fieldOpc (w : Word) : Nat := bitsOf w 31 24

/-- `A`, bits 23:16 (R81). -/
def fieldA (w : Word) : Nat := bitsOf w 23 16

/-- `B`, bits 15:8 (R81). -/
def fieldB (w : Word) : Nat := bitsOf w 15 8

/-- `C`, bits 7:0 (R81). -/
def fieldC (w : Word) : Nat := bitsOf w 7 0

/-- Why a command word is illegal (R88). -/
inductive DecodeError where
  /-- Its `OPC` is none of the 23 codes of R86. -/
  | unusedOpcode (opc : Nat)
  /-- A field that its format does not use is not zero. -/
  | nonzeroField (opc : Nat)
  deriving DecidableEq, Repr

/-- Accept `i` when the must-be-zero fields are zero. -/
def whenZero (mbz : Bool) (w : Word) (i : Instr) : Except DecodeError Instr :=
  if mbz then .ok i else .error (.nonzeroField (fieldOpc w))

/-- Formats `Z` and `S` (R85): `A`, `B`, `C` must be zero. -/
def formatZ (w : Word) (i : Instr) : Except DecodeError Instr :=
  whenZero (fieldA w == 0 && fieldB w == 0 && fieldC w == 0) w i

/-- Formats `N`, `ND` and `WS` (R85): `A` is the operand; `B`, `C` must be zero. -/
def formatA (w : Word) (f : Nat → Instr) : Except DecodeError Instr :=
  whenZero (fieldB w == 0 && fieldC w == 0) w (f (fieldA w))

/-- Format `WWS` (R85): `A` and `B` are the operands; `C` must be zero. -/
def formatAB (w : Word) (f : Nat → Nat → Instr) : Except DecodeError Instr :=
  whenZero (fieldC w == 0) w (f (fieldA w) (fieldB w))

/-- Format `I16` (R85, R87): the immediate is `(B << 8) | C`; `A` must be zero. -/
def formatI16 (w : Word) (f : Nat → Instr) : Except DecodeError Instr :=
  whenZero (fieldA w == 0) w (f (fieldB w * 256 + fieldC w))

/-- Format `I8` (R85): `C` is the immediate; `A`, `B` must be zero. -/
def formatI8 (w : Word) (f : Nat → Instr) : Except DecodeError Instr :=
  whenZero (fieldA w == 0 && fieldB w == 0) w (f (fieldC w))

/-- The decoder (R86, R88): total, every one of the `2^32` words is one operation or illegal. -/
def decode (w : Word) : Except DecodeError Instr :=
  match fieldOpc w with
  | 0x00 => formatZ w .stat
  | 0x10 => formatA w .rdLoad
  | 0x11 => formatA w .rdRead
  | 0x12 => formatZ w .rdRem
  | 0x14 => formatA w .wrInit
  | 0x15 => formatA w .wrWrite
  | 0x16 => formatZ w .wrFin
  | 0x18 => formatAB w .bitpack
  | 0x20 => formatZ w .shuf
  | 0x21 => formatZ w .unshuf
  | 0x30 => formatI16 w .genSeed
  | 0x31 => formatZ w .genNext
  | 0x40 => formatZ w .ciphDec
  | 0x41 => formatZ w .ciphEnc
  | 0x50 => formatZ w .chkInit
  | 0x51 => formatI8 w .chkUpd
  | 0x52 => formatZ w .chkFin
  | 0x53 => formatZ w .chksum
  | 0x60 => formatZ w .crcInit
  | 0x61 => formatI8 w .crcUpd
  | 0x62 => formatZ w .crcFin
  | 0x63 => formatZ w .crc32
  | 0x64 => formatZ w .revive
  | opc => .error (.unusedOpcode opc)

/-- A command word from its four fields (R81). -/
def commandWord (opc a b c : Nat) : Word :=
  BitVec.ofNat 32 (opc * 2 ^ 24 + a * 2 ^ 16 + b * 2 ^ 8 + c)

/-- The encoder (R85 to R87): the command word of an operation. -/
def encode : Instr → Word
  | .stat => commandWord 0x00 0 0 0
  | .rdLoad sw => commandWord 0x10 sw 0 0
  | .rdRead n => commandWord 0x11 n 0 0
  | .rdRem => commandWord 0x12 0 0 0
  | .wrInit dw => commandWord 0x14 dw 0 0
  | .wrWrite n => commandWord 0x15 n 0 0
  | .wrFin => commandWord 0x16 0 0 0
  | .bitpack sw dw => commandWord 0x18 sw dw 0
  | .shuf => commandWord 0x20 0 0 0
  | .unshuf => commandWord 0x21 0 0 0
  | .genSeed seed => commandWord 0x30 0 (seed / 256) (seed % 256)
  | .genNext => commandWord 0x31 0 0 0
  | .ciphDec => commandWord 0x40 0 0 0
  | .ciphEnc => commandWord 0x41 0 0 0
  | .chkInit => commandWord 0x50 0 0 0
  | .chkUpd byte => commandWord 0x51 0 0 byte
  | .chkFin => commandWord 0x52 0 0 0
  | .chksum => commandWord 0x53 0 0 0
  | .crcInit => commandWord 0x60 0 0 0
  | .crcUpd byte => commandWord 0x61 0 0 byte
  | .crcFin => commandWord 0x62 0 0 0
  | .crc32 => commandWord 0x63 0 0 0
  | .revive => commandWord 0x64 0 0 0

/-- The mnemonic of R86. -/
def Instr.mnemonic : Instr → String
  | .stat => "STAT"
  | .rdLoad _ => "RD.LOAD"
  | .rdRead _ => "RD.READ"
  | .rdRem => "RD.REM"
  | .wrInit _ => "WR.INIT"
  | .wrWrite _ => "WR.WRITE"
  | .wrFin => "WR.FIN"
  | .bitpack _ _ => "BITPACK"
  | .shuf => "SHUF"
  | .unshuf => "UNSHUF"
  | .genSeed _ => "GEN.SEED"
  | .genNext => "GEN.NEXT"
  | .ciphDec => "CIPH.DEC"
  | .ciphEnc => "CIPH.ENC"
  | .chkInit => "CHK.INIT"
  | .chkUpd _ => "CHK.UPD"
  | .chkFin => "CHK.FIN"
  | .chksum => "CHKSUM"
  | .crcInit => "CRC.INIT"
  | .crcUpd _ => "CRC.UPD"
  | .crcFin => "CRC.FIN"
  | .crc32 => "CRC32"
  | .revive => "REVIVE"

/-- One row of the operation map of R86: a word `w` selects the row when `w & mask = pattern`. -/
structure MapRow where
  mnemonic : String
  pattern : Word
  mask : Word
  deriving DecidableEq, Repr

/-- The operation map of R86, in its order. The decoder does not read it: that the two agree is a statement. -/
def operationMap : List MapRow :=
  [⟨"STAT", 0x00000000, 0xFFFFFFFF⟩,
   ⟨"RD.LOAD", 0x10000000, 0xFF00FFFF⟩,
   ⟨"RD.READ", 0x11000000, 0xFF00FFFF⟩,
   ⟨"RD.REM", 0x12000000, 0xFFFFFFFF⟩,
   ⟨"WR.INIT", 0x14000000, 0xFF00FFFF⟩,
   ⟨"WR.WRITE", 0x15000000, 0xFF00FFFF⟩,
   ⟨"WR.FIN", 0x16000000, 0xFFFFFFFF⟩,
   ⟨"BITPACK", 0x18000000, 0xFF0000FF⟩,
   ⟨"SHUF", 0x20000000, 0xFFFFFFFF⟩,
   ⟨"UNSHUF", 0x21000000, 0xFFFFFFFF⟩,
   ⟨"GEN.SEED", 0x30000000, 0xFFFF0000⟩,
   ⟨"GEN.NEXT", 0x31000000, 0xFFFFFFFF⟩] ++
  [⟨"CIPH.DEC", 0x40000000, 0xFFFFFFFF⟩,
   ⟨"CIPH.ENC", 0x41000000, 0xFFFFFFFF⟩,
   ⟨"CHK.INIT", 0x50000000, 0xFFFFFFFF⟩,
   ⟨"CHK.UPD", 0x51000000, 0xFFFFFF00⟩,
   ⟨"CHK.FIN", 0x52000000, 0xFFFFFFFF⟩,
   ⟨"CHKSUM", 0x53000000, 0xFFFFFFFF⟩,
   ⟨"CRC.INIT", 0x60000000, 0xFFFFFFFF⟩,
   ⟨"CRC.UPD", 0x61000000, 0xFFFFFF00⟩,
   ⟨"CRC.FIN", 0x62000000, 0xFFFFFFFF⟩,
   ⟨"CRC32", 0x63000000, 0xFFFFFFFF⟩,
   ⟨"REVIVE", 0x64000000, 0xFFFFFFFF⟩]

/-- The least number of payload words the operation admits (R82, R86): used only to place a runnable transaction
in front of the block (`State.withFetchWord`). -/
def Instr.leastPayload : Instr → Nat
  | .stat => 0
  | .rdLoad _ => 0
  | .rdRead _ => 0
  | .rdRem => 0
  | .wrInit _ => 0
  | .wrWrite _ => 1
  | .wrFin => 0
  | .bitpack _ _ => 0
  | .shuf => 30
  | .unshuf => 30
  | .genSeed _ => 0
  | .genNext => 0
  | .ciphDec => 2
  | .ciphEnc => 2
  | .chkInit => 0
  | .chkUpd _ => 0
  | .chkFin => 0
  | .chksum => 1
  | .crcInit => 0
  | .crcUpd _ => 0
  | .crcFin => 0
  | .crc32 => 0
  | .revive => 0

/-- A payload of zeros of the least length that the command word's operation admits; empty for an illegal word. -/
def zeroPayload (w : Word) : List Word :=
  match decode w with
  | .ok i => List.replicate i.leastPayload 0#32
  | .error _ => []

/-- The operation the decoder reads from a table row's bits: `nbits` bits of `w`, every bit above them zero, as one
32-bit command word (R81: one word, its bit 31 the most significant, so there is no byte order to apply, R61). -/
def decodeTableWord (nbits w : Nat) : Option Instr :=
  let v := w % 2 ^ nbits
  if v < 2 ^ 32 then (decode (BitVec.ofNat 32 v)).toOption else none

end Sys2Proof
end

