-- ==== Sys2Proof/Machine/State.lean ====
section
/-!
DEFINITION. The state of the block (spec/10_state.md rules R22 to R37) with the host's side of the interface
(spec/30_encoding.md rules R80 to R83, spec/70_reset_and_hazards.md rules R290, R296), the stop types, and the
state right after reset.
-/

namespace Sys2Proof
namespace Machine

/-- The Bitstream Reader's registers (R22). -/
structure Reader where
  /-- `RD.VALID`. -/
  valid : Bool
  /-- `RD.SW`, the source width, 1 to 32. -/
  sw : Nat
  /-- `RD.SRC`, the source digits, each in a data word. -/
  src : List Word
  /-- `RD.LEN`, the number of source digits. -/
  len : Nat
  /-- `RD.POS`, the index of the next unread source digit. -/
  pos : Nat
  /-- `RD.ACC`, the retained bits, bit 0 the next to return; below `2^63` in every valid Reader (R23). Log entry 9. -/
  acc : Nat
  /-- `RD.CNT`, how many bits `RD.ACC` holds. -/
  cnt : Nat
  deriving DecidableEq, Repr

/-- The Bitstream Writer's registers (R24). -/
structure Writer where
  /-- `WR.VALID`. -/
  valid : Bool
  /-- `WR.DW`, the dest width, 1 to 32. -/
  dw : Nat
  /-- `WR.ACC`, the bits not yet flushed, bit 0 the oldest; below `2^63` in every valid Writer (R25). Log entry 9. -/
  acc : Nat
  /-- `WR.CNT`, how many bits `WR.ACC` holds. -/
  cnt : Nat
  /-- `WR.OUT`, the digits flushed so far, oldest first. -/
  out : List Word
  deriving DecidableEq, Repr

/-- The Generator's registers (R26). -/
structure Generator where
  /-- `GEN.VALID`. -/
  valid : Bool
  /-- `GEN.S[0..55]`. -/
  s : Vector Nat 56
  /-- `GEN.I1`, the first read cursor. -/
  i1 : Nat
  /-- `GEN.I2`, the second read cursor. -/
  i2 : Nat
  deriving DecidableEq, Repr

/-- The Checksum's registers (R28). -/
structure Checksum where
  /-- `CHK.VALID`. -/
  valid : Bool
  /-- `CHK.SUM`, the running sum, below `2^32`. -/
  sum : Nat
  /-- `CHK.PH`. -/
  ph : ChkPhase
  /-- `CHK.PEND`, the held low byte. -/
  pend : Nat
  deriving DecidableEq, Repr

/-- The CRC32's registers (R29). -/
structure Crc where
  /-- `CRC.VALID`. -/
  valid : Bool
  /-- `CRC.R`, 32 bits. -/
  r : Word
  deriving DecidableEq, Repr

/-- A response (R83): the status code of the response word (the word is its zero extension) and the result words. -/
structure Response where
  status : Byte
  result : List Word
  deriving DecidableEq, Repr

/-- The response word of R83, `zext_32(STATUS)`. -/
def Response.word (r : Response) : Word := r.status.setWidth 32

/-- What the host can do to the block (R290, R296 H1 and H3): issue one transaction, a command word with its payload
words, or assert reset between transactions. -/
inductive HostMove where
  | transaction (cmd : Word) (payload : List Word)
  | reset
  deriving DecidableEq, Repr

/-- The fault codes the block records (R260, codes 1 to 6). -/
inductive FaultCode where
  | illegalOp
  | badWidth
  | badLength
  | digitRange
  | notReady
  | overflow
  deriving DecidableEq, Repr

/-- The state of the block and of its interface. -/
structure State where
  /-- Unit `RD` (R22). -/
  rd : Reader
  /-- Unit `WR` (R24). -/
  wr : Writer
  /-- Unit `GEN` (R26). -/
  gen : Generator
  /-- Unit `CHK` (R28). -/
  chk : Checksum
  /-- Unit `CRC` (R29). -/
  crc : Crc
  /-- `FAULT`, 8 bits, whose field `CODE` is the whole register (R33). -/
  faultCode : Byte
  /-- `FCMD`, 32 bits (R33). -/
  fcmd : Word
  /-- The command word of the transaction in progress, or of the last one (R80). -/
  cmd : Word
  /-- The payload of the transaction in progress, or of the last one (R80, R82). -/
  payload : List Word
  /-- The moves the host will make, the next one first (R70, R296): the model's input. Log entry 8. -/
  inbox : List HostMove
  /-- The responses the block has given, the oldest first (R83): the model's output. Log entry 8. -/
  outbox : List Response
  /-- The model's own counter of the times registers became unspecified; only the free values read it. -/
  freeDraws : Nat
  deriving DecidableEq, Repr

/-- Why the machine stops with a fault. It has no constructor: every fault of this block is recorded and answered and
the block goes on (R262), so no step stops. That is safe, since nothing is left out by it. Log entry 10. -/
inductive Fault where
  deriving DecidableEq, Repr

/-- Why the machine refuses to give a meaning. -/
inductive Refusal where
  /-- An arm of `exec` with no meaning yet would raise it; no arm of this model does. Safe: it stops. -/
  | notModelled (mnemonic : String)
  deriving DecidableEq, Repr

/-- The state after reset (R37, R290): the five `VALID` flags, `FAULT.CODE` and `FCMD` are 0. The other registers are
unspecified in the spec; the values here are DESIGN CHOICE, log entry 1, and unobservable. -/
def State.reset : State where
  rd := { valid := false, sw := 0, src := [], len := 0, pos := 0, acc := 0, cnt := 0 }
  wr := { valid := false, dw := 0, acc := 0, cnt := 0, out := [] }
  gen := { valid := false, s := Vector.replicate 56 0, i1 := 0, i2 := 0 }
  chk := { valid := false, sum := 0, ph := .first, pend := 0 }
  crc := { valid := false, r := 0#32 }
  faultCode := 0#8
  fcmd := 0#32
  cmd := 0#32
  payload := []
  inbox := []
  outbox := []
  freeDraws := 0

end Machine
end Sys2Proof
end

