-- ==== Sys2Proof/Machine/Flags.lean ====
section
/-!
DEFINITION. The status flags of the block (spec/10_state.md rule R34): the five `VALID` bits and `FAULT.CODE != 0`, and
the status image that `STAT` returns (spec/47_status.md rules R210, R211). There are no arithmetic flags.
-/

namespace Sys2Proof
namespace Machine

/-- `FAULT.CODE != 0` (R34). -/
def State.faulted (s : State) : Bool := decide (s.faultCode ≠ 0#8)

/-- A flag as bit `k` of a word. -/
def flagBit (b : Bool) (k : Nat) : Word := if b then 1#32 <<< k else 0#32

/-- The first status word (R210, R211). -/
def State.statusWord (s : State) : Word :=
  s.faultCode.setWidth 32 ||| flagBit s.rd.valid 8 ||| flagBit s.wr.valid 9 ||| flagBit s.gen.valid 10
    ||| flagBit s.chk.valid 11 ||| flagBit s.crc.valid 12

end Machine
end Sys2Proof
end

