-- ==== Sys2Proof/Machine/Operands.lean ====
section
/-!
DEFINITION. The operands of an operation: the admitted ranges of the small operands (spec/30_encoding.md rule R87) and
the payload of the transaction in progress (R82). Every `…Bad`, `…Over` and `…Given` is the failure of one check of
spec/60_exceptions.md rule R261.
-/

namespace Sys2Proof
namespace Machine

/-- `sw` or `dw` outside 1 to 32 (R87, R260 `BAD_WIDTH`). -/
def widthBad (w : Nat) : Bool := decide (w < 1) || decide (Config.wmax < w)

/-- `n` above 32 (R87, R260 `BAD_WIDTH`). -/
def countBad (n : Nat) : Bool := decide (Config.wmax < n)

/-- The number of payload words of the transaction. -/
def State.payloadLen (s : State) : Nat := s.payload.length

/-- A payload on an operation that takes none (R82, R260 `BAD_LENGTH`). -/
def State.payloadGiven (s : State) : Bool := decide (s.payloadLen ≠ 0)

/-- Some element is not below `2^w` (R82, R260 `DIGIT_RANGE`). -/
def digitOver (w : Nat) (ds : List Word) : Bool := ds.any fun d => decide (2 ^ w ≤ d.toNat)

/-- The scalar payload of `WR.WRITE` (R82). -/
def State.scalar (s : State) : Nat := (s.payload.headD 0#32).toNat

/-- The payload elements as integers (R10, R82). -/
def State.elements (s : State) : List Nat := s.payload.map BitVec.toNat

/-- A sequence result: one word per element, zero-extended (R83). -/
def seqResult (ds : List Nat) : List Word := ds.map toWord

/-- A scalar result: exactly one word, zero-extended (R83). -/
def scalarResult (v : Nat) : List Word := [toWord v]

end Machine
end Sys2Proof
end

