-- ==== Sys2Proof/Machine/Ops.lean ====
section
/-!
DEFINITION. The named operations over the state: the transaction protocol, taking a fault and clearing it by reset
(spec/60_exceptions.md rules R260 to R265, spec/70_reset_and_hazards.md rule R290), the one shape every operation has
(checks in order, then the effect, then the response), and the operations over each unit's registers.
-/

namespace Sys2Proof
namespace Machine

/-- What a step or a meaning answers. -/
abbrev StepResult := Host.Outcome State Fault Refusal

/-! ### Responses and faults -/

/-- The status `OK` (R260). -/
def statusOk : Byte := 0#8

/-- The status `FAULTED`, a response only, never stored (R260). -/
def statusFaulted : Byte := 7#8

/-- The codes of R260. -/
def FaultCode.code : FaultCode → Byte
  | .illegalOp => 1#8
  | .badWidth => 2#8
  | .badLength => 3#8
  | .digitRange => 4#8
  | .notReady => 5#8
  | .overflow => 6#8

/-- Give a response (R83). -/
def State.respond (s : State) (status : Byte) (result : List Word) : State :=
  { s with outbox := s.outbox ++ [{ status := status, result := result }] }

/-- Write the fault record (R33, R262). -/
def State.recordFault (s : State) (c : FaultCode) : State :=
  { s with faultCode := c.code, fcmd := s.cmd }

/-- Fault entry, `raise Fault(CODE)` of R262, from a state with no fault recorded: the record is written, the status is
the code, no result words follow, and nothing else changes. Control goes nowhere (R262). -/
def State.raise (s : State) (c : FaultCode) : State :=
  (s.recordFault c).respond c.code []

/-- The refusal of R263 while a fault is recorded: status `FAULTED`, no other change. -/
def State.refuseFaulted (s : State) : State := s.respond statusFaulted []

/-! ### What becomes unspecified -/

/-- The Reader after its registers became unspecified (R37): not valid, the rest free values. Log entry 1. -/
def Reader.unspecified (draw : Nat) : Reader where
  valid := false
  sw := Config.freeNat draw .rdSw
  src := Config.freeWords draw .rdSrc
  len := Config.freeNat draw .rdLen
  pos := Config.freeNat draw .rdPos
  acc := Config.freeNat draw .rdAcc
  cnt := Config.freeNat draw .rdCnt

/-- The Writer after its registers became unspecified (R37, R120). Log entry 1. -/
def Writer.unspecified (draw : Nat) : Writer where
  valid := false
  dw := Config.freeNat draw .wrDw
  acc := Config.freeNat draw .wrAcc
  cnt := Config.freeNat draw .wrCnt
  out := Config.freeWords draw .wrOut

/-- The Generator after its registers became unspecified (R37). Log entry 1. -/
def Generator.unspecified (draw : Nat) : Generator where
  valid := false
  s := Config.freeEntries draw
  i1 := Config.freeNat draw .genI1
  i2 := Config.freeNat draw .genI2

/-- The Checksum after its registers became unspecified (R37, U2). Log entry 1. -/
def Checksum.unspecified (draw : Nat) : Checksum where
  valid := false
  sum := Config.freeNat draw .chkSum
  ph := Config.freePhase draw
  pend := Config.freeNat draw .chkPend

/-- The CRC32 unit after its register became unspecified (R37, U2). Log entry 1. -/
def Crc.unspecified (draw : Nat) : Crc where
  valid := false
  r := Config.freeWord draw .crcR

/-! ### Unit updates -/

/-- Replace the Reader. -/
def State.setRd (s : State) (u : Reader) : State := { s with rd := u }

/-- Replace the Writer. -/
def State.setWr (s : State) (u : Writer) : State := { s with wr := u }

/-- Replace the Generator. -/
def State.setGen (s : State) (u : Generator) : State := { s with gen := u }

/-- Replace the Checksum. -/
def State.setChk (s : State) (u : Checksum) : State := { s with chk := u }

/-- Replace the CRC32 unit. -/
def State.setCrc (s : State) (u : Crc) : State := { s with crc := u }

/-- `WR.VALID <- 0`, the Writer's other registers become unspecified (R120). -/
def State.closeWr (s : State) : State :=
  { s with wr := Writer.unspecified s.freeDraws, freeDraws := s.freeDraws + 1 }

/-- `CHK.VALID <- 0`, the Checksum's other registers become unspecified (R186, U2). -/
def State.closeChk (s : State) : State :=
  { s with chk := Checksum.unspecified s.freeDraws, freeDraws := s.freeDraws + 1 }

/-- `CRC.VALID <- 0`, `CRC.R` becomes unspecified (R199, U2). -/
def State.closeCrc (s : State) : State :=
  { s with crc := Crc.unspecified s.freeDraws, freeDraws := s.freeDraws + 1 }

/-- Reset (R290), the only thing that clears a fault (R264) and the nearest the block has to a return from one (R271):
the five flags, `FAULT.CODE` and `FCMD` become 0, every other register unspecified. It gives no response. -/
def State.resetBlock (s : State) : State :=
  { s with
    rd := Reader.unspecified s.freeDraws
    wr := Writer.unspecified s.freeDraws
    gen := Generator.unspecified s.freeDraws
    chk := Checksum.unspecified s.freeDraws
    crc := Crc.unspecified s.freeDraws
    faultCode := 0#8
    fcmd := 0#32
    freeDraws := s.freeDraws + 1 }

/-! ### The shape of an operation -/

/-- One check of R261: whether it fails, and the code it raises. -/
abbrev Check := Bool × FaultCode

/-- The first check that fails (R261): later ones are not evaluated. -/
def firstFailure : List Check → Option FaultCode
  | [] => none
  | (failed, code) :: rest => if failed then some code else firstFailure rest

/-- What every operation but `STAT` does (R84, R261 to R265): refused with `FAULTED` while a fault is recorded; else the
first failing check is raised and nothing else changes; else the effect takes place and the result is returned. -/
def operate (s : State) (checks : List Check) (done : State) (result : List Word) : StepResult :=
  .next (if s.faulted then s.refuseFaulted else
    match firstFailure checks with
    | some c => s.raise c
    | none => done.respond statusOk result)

/-- An illegal command word (R88): `ILLEGAL_OP`, or `FAULTED` while a fault is recorded (R261, R263). -/
def illegalCommand (s : State) : StepResult :=
  operate s [(true, .illegalOp)] s []

/-! ### The host's moves -/

/-- What the block finds when it is idle (R9, R70, R290). -/
inductive NextMove where
  /-- The host has made no move: the block waits (R262, R296 H6). -/
  | none
  /-- The host asserts reset. -/
  | reset (s : State)
  /-- The host issues a transaction: its words are latched. -/
  | transaction (s : State)
  deriving DecidableEq, Repr

/-- Take the host's next move (R80, R296). -/
def State.nextMove (s : State) : NextMove :=
  match s.inbox with
  | [] => .none
  | .reset :: rest => .reset { s with inbox := rest }
  | .transaction w p :: rest => .transaction { s with inbox := rest, cmd := w, payload := p }

/-- Put a transaction in front of the block, to be taken by the next step (R80). -/
def State.submit (s : State) (w : Word) (p : List Word) : State :=
  { s with inbox := .transaction w p :: s.inbox }

/-! ### The Reader's registers -/

/-- Construct a Reader (R110). -/
def Reader.load (sw : Nat) (digits : List Word) : Reader where
  valid := true
  sw := sw
  src := digits
  len := digits.length
  pos := 0
  acc := 0
  cnt := 0

/-- The loop of R112, `while RD.CNT < n and RD.POS < RD.LEN`. Each round moves `RD.POS` up by one, so `RD.LEN - RD.POS`
rounds are never too few. -/
def Reader.refill (n : Nat) : Nat → Reader → Reader
  | 0, r => r
  | fuel + 1, r =>
    if r.cnt < n ∧ r.pos < r.len then
      Reader.refill n fuel
        { r with
          acc := r.acc ||| ((r.src.getD r.pos 0#32).toNat <<< r.cnt)
          cnt := r.cnt + r.sw
          pos := r.pos + 1 }
    else r

/-- `RD.READ n` on the registers (R112): the Reader afterwards and the value. `RD.CNT` saturates at 0. -/
def Reader.read (r : Reader) (n : Nat) : Reader × Nat :=
  let f := Reader.refill n (r.len - r.pos) r
  ({ f with acc := f.acc >>> n, cnt := f.cnt - n }, low f.acc n)

/-- The test of `RD.REM` (R114): unread source digits, or at least one retained bit. -/
def Reader.remaining (r : Reader) : Bool := decide (r.pos < r.len) || decide (0 < r.cnt)

/-! ### The Writer's registers -/

/-- Construct an empty Writer (R116). -/
def Writer.init (dw : Nat) : Writer where
  valid := true
  dw := dw
  acc := 0
  cnt := 0
  out := []

/-- The loop of R118, `while WR.CNT >= WR.DW`; `WR.CNT / WR.DW` rounds are all it makes. -/
def Writer.flush : Nat → Writer → Writer
  | 0, w => w
  | fuel + 1, w =>
    if w.dw ≤ w.cnt then
      Writer.flush fuel
        { w with
          out := w.out ++ [toWord (low w.acc w.dw)]
          acc := w.acc >>> w.dw
          cnt := w.cnt - w.dw }
    else w

/-- `WR.WRITE n, value` on the registers (R118). -/
def Writer.write (w : Writer) (n value : Nat) : Writer :=
  let filled := { w with acc := w.acc ||| (low value n <<< w.cnt), cnt := w.cnt + n }
  Writer.flush (filled.cnt / filled.dw) filled

/-- The length `WR.OUT` will have after `WR.WRITE n` (R118, R265). -/
def Writer.lengthAfter (w : Writer) (n : Nat) : Nat := w.out.length + (w.cnt + n) / w.dw

/-- The digits `WR.FIN` returns (R120). -/
def Writer.finish (w : Writer) : List Word :=
  if 0 < w.cnt then w.out ++ [toWord w.acc] else w.out

/-! ### The Generator's registers -/

/-- `normalize(a - b)` of R150 on integers of `[0, BIG - 1]`, in the form of R254. -/
def lagSub (a b : Nat) : Nat := if b ≤ a then a - b else a + Config.big - b

/-- `GEN.S[i]`. -/
def entryOf (v : Vector Nat 56) (i : Nat) : Nat := v.toList.getD i 0

/-- `GEN.S[i] <- x`. -/
def withEntry (v : Vector Nat 56) (i x : Nat) : Vector Nat 56 := v.setIfInBounds i x

/-- The variables of the placement loop of R151 part 1: the array, `mj` and `mk`. -/
structure Placement where
  s : Vector Nat 56
  mj : Nat
  running : Nat
  deriving DecidableEq, Repr

/-- One round of the placement loop (R151 part 1, R152): `mj` becomes the value just placed. -/
def Placement.place (p : Placement) (i : Nat) : Placement where
  s := withEntry p.s (21 * i % 55) p.running
  mj := p.running
  running := lagSub p.mj p.running

/-- Part 1 of R151. Entry 0 is 0 (R27, D13); the initial running value is 1 (R152, D12). -/
def placed (seed : Nat) : Vector Nat 56 :=
  let start : Placement :=
    { s := withEntry (Vector.replicate 56 0) 55 (Config.seedBase - seed)
      mj := Config.seedBase - seed
      running := 1 }
  ((List.range' 1 54).foldl Placement.place start).s

/-- The neighbour of entry `i` in a pass (R153). -/
def neighbour (i : Nat) : Nat := 1 + (i + 30) % 55

/-- One pass of R151 part 2: ascending from 1 to 55, in place (R153). -/
def pass (v : Vector Nat 56) : Vector Nat 56 :=
  (List.range' 1 55).foldl (fun a i => withEntry a i (lagSub (entryOf a i) (entryOf a (neighbour i)))) v

/-- `GEN.SEED seed` on the registers (R151): placement, four passes, cursors. -/
def Generator.seeded (seed : Nat) : Generator where
  valid := true
  s := Nat.repeat pass 4 (placed seed)
  i1 := 0
  i2 := 21

/-- Advance a cursor (R156): 56 wraps to 1. -/
def advance (i : Nat) : Nat := if i + 1 = 56 then 1 else i + 1

/-- `GEN.NEXT` on the registers (R156): the Generator afterwards and the output. -/
def Generator.draw (g : Generator) : Generator × Nat :=
  let i1 := advance g.i1
  let i2 := advance g.i2
  let r := lagSub (entryOf g.s i1) (entryOf g.s i2)
  ({ g with s := withEntry g.s i1 r, i1 := i1, i2 := i2 }, r)

/-! ### The Checksum's registers -/

/-- `CHK.INIT` on the registers (R184). -/
def Checksum.init : Checksum where
  valid := true
  sum := 0
  ph := .first
  pend := 0

/-- The 16-bit value of a completed pair (R181, R185). -/
def pairValue (lowByte highByte : Nat) : Nat := lowByte ||| (highByte <<< 8)

/-- `CHK.UPD byte` on the registers (R185). -/
def Checksum.take (c : Checksum) (byte : Nat) : Checksum :=
  match c.ph with
  | .first => { c with sum := byte, ph := .lo }
  | .lo => { c with pend := byte, ph := .hi }
  | .hi => { c with sum := c.sum + pairValue c.pend byte, ph := .lo }

/-- `CHK.SUM` would reach `2^32` (R185, R260 `OVERFLOW`). -/
def Checksum.wouldOverflow (c : Checksum) (byte : Nat) : Bool :=
  decide (2 ^ 32 ≤ (c.take byte).sum)

/-- The 16-bit fold of R182, `while a > 0xFFFF`; `a` decreases in each round, so `a` rounds are enough. -/
def fold16 : Nat → Nat → Nat
  | 0, a => a
  | fuel + 1, a => if 0xFFFF < a then fold16 fuel ((a >>> 16) + (a &&& 0xFFFF)) else a

/-- The 8-bit fold of R182, `while a > 0xFF`. -/
def fold8 : Nat → Nat → Nat
  | 0, a => a
  | fuel + 1, a => if 0xFF < a then fold8 fuel ((a >>> 8) + (a &&& 0xFF)) else a

/-- `fold(a)` of R182. -/
def fold (a : Nat) : Nat :=
  let b := fold16 a a
  fold8 b b

/-- The value `CHK.FIN` returns (R186). -/
def Checksum.finish (c : Checksum) : Nat :=
  fold (if c.ph = .hi then c.sum + c.pend else c.sum) ^^^ 0xFF

/-! ### The CRC32's register -/

/-- One of the eight steps of the table loop (R195). -/
def crcShift (c : Word) : Word := if c.getLsbD 0 then (c >>> 1) ^^^ Config.crcPoly else c >>> 1

/-- `CRCTAB[n]` as the result of the loop of R195. -/
def crcTab (n : Nat) : Word :=
  Nat.repeat crcShift 8 (toWord n)

/-- One step of R196 and R198: `CRCTAB[(crc & 0xFF) XOR byte] XOR (crc >> 8)`. -/
def crcStep (crc : Word) (byte : Nat) : Word :=
  crcTab ((crc.toNat &&& 0xFF) ^^^ byte) ^^^ (crc >>> 8)

/-- The final XOR of R196 and R199. -/
def crcFinal (crc : Word) : Word := crc ^^^ 0xFFFFFFFF#32

/-- `CRC.INIT` on the register (R197). -/
def Crc.init : Crc where
  valid := true
  r := 0xFFFFFFFF#32

end Machine
end Sys2Proof
end

