-- ==== Sys2Proof/Machine/Bitstream.lean ====
section
/-!
DEFINITION. The Bitstream unit: `RD.LOAD`, `RD.READ`, `RD.REM`, `WR.INIT`, `WR.WRITE`, `WR.FIN`, `BITPACK`
(spec/41_bitstream.md rules R110 to R121).
-/

namespace Sys2Proof
namespace Machine

/-- `RD.LOAD sw, digits` (R110). -/
def execRdLoad (sw : Nat) (s : State) : StepResult :=
  operate s
    [(widthBad sw, .badWidth),
     (Config.exceedsMaxLen s.payloadLen, .badLength),
     (digitOver sw s.payload, .digitRange)]
    (s.setRd (Reader.load sw s.payload)) []

/-- `RD.READ n` (R112). -/
def execRdRead (n : Nat) (s : State) : StepResult :=
  operate s
    [(countBad n, .badWidth),
     (!s.rd.valid, .notReady),
     (s.payloadGiven, .badLength)]
    (s.setRd (s.rd.read n).1) (scalarResult (s.rd.read n).2)

/-- `RD.REM` (R114). -/
def execRdRem (s : State) : StepResult :=
  operate s
    [(!s.rd.valid, .notReady),
     (s.payloadGiven, .badLength)]
    s (scalarResult (if s.rd.remaining then 1 else 0))

/-- `WR.INIT dw` (R116). -/
def execWrInit (dw : Nat) (s : State) : StepResult :=
  operate s
    [(widthBad dw, .badWidth),
     (s.payloadGiven, .badLength)]
    (s.setWr (Writer.init dw)) []

/-- `WR.WRITE n, value` (R118): the size is tested before anything is appended (R265). -/
def execWrWrite (n : Nat) (s : State) : StepResult :=
  operate s
    [(countBad n, .badWidth),
     (!s.wr.valid, .notReady),
     (decide (s.payloadLen ≠ 1), .badLength),
     (Config.exceedsMaxLen (s.wr.lengthAfter n), .overflow)]
    (s.setWr (s.wr.write n s.scalar)) []

/-- `WR.FIN` (R120). -/
def execWrFin (s : State) : StepResult :=
  operate s
    [(!s.wr.valid, .notReady),
     (s.payloadGiven, .badLength),
     (decide (0 < s.wr.cnt) && Config.exceedsMaxLen (s.wr.out.length + 1), .overflow)]
    s.closeWr s.wr.finish

/-- The loop of `BITPACK` (R121) on a shadow Reader: pull `dw`-bit digits while the test of `RD.REM` holds. -/
def pullDigits (dw : Nat) : Nat → Reader → List Nat
  | 0, _ => []
  | fuel + 1, r =>
    if r.remaining then (r.read dw).2 :: pullDigits dw fuel (r.read dw).1 else []

/-- The number of digits `BITPACK` returns, `ceil(L * sw / dw)` (R121, R122), which bounds its loop. -/
def packedLength (sw dw len : Nat) : Nat := ceilDiv (len * sw) dw

/-- `BITPACK sw, dw, digits` as the pure function of R121 and R36. -/
def repack (sw dw : Nat) (digits : List Word) : List Nat :=
  pullDigits dw (packedLength sw dw digits.length) (Reader.load sw digits)

/-- `BITPACK sw, dw, digits` (R121). -/
def execBitpack (sw dw : Nat) (s : State) : StepResult :=
  operate s
    [(widthBad sw || widthBad dw, .badWidth),
     (Config.exceedsMaxLen s.payloadLen, .badLength),
     (digitOver sw s.payload, .digitRange),
     (Config.exceedsMaxLen (packedLength sw dw s.payloadLen), .overflow)]
    s (seqResult (repack sw dw s.payload))

end Machine
end Sys2Proof
end

