-- ==== Sys2Proof/Machine/Checksum.lean ====
section
/-!
DEFINITION. The Checksum unit: `CHK.INIT`, `CHK.UPD`, `CHK.FIN`, `CHKSUM` (spec/45_checksum.md rules R180 to R188).
-/

namespace Sys2Proof
namespace Machine

/-- The bytes after byte 0, two at a time, the low byte first; a last byte without a partner alone (R181). -/
def sumPairs : List Nat → Nat
  | [] => 0
  | [b] => b
  | b :: c :: rest => (b + 256 * c) + sumPairs rest

/-- `sum(code)` of R181. -/
def sumBytes : List Nat → Nat
  | [] => 0
  | b :: rest => b + sumPairs rest

/-- `checksum(code)` of R180: the fold of the sum, complemented (R183). -/
def checksum (code : List Nat) : Nat := fold (sumBytes code) ^^^ 0xFF

/-- `CHK.INIT` (R184). -/
def execChkInit (s : State) : StepResult :=
  operate s [(s.payloadGiven, .badLength)] (s.setChk Checksum.init) []

/-- `CHK.UPD byte` (R185). -/
def execChkUpd (byte : Nat) (s : State) : StepResult :=
  operate s
    [(!s.chk.valid, .notReady),
     (s.payloadGiven, .badLength),
     (s.chk.wouldOverflow byte, .overflow)]
    (s.setChk (s.chk.take byte)) []

/-- `CHK.FIN` (R186): the payload count first, then the phase (R261). -/
def execChkFin (s : State) : StepResult :=
  operate s
    [(!s.chk.valid, .notReady),
     (s.payloadGiven, .badLength),
     (decide (s.chk.ph = .first), .badLength)]
    s.closeChk (scalarResult s.chk.finish)

/-- `CHKSUM code` (R188). -/
def execChksum (s : State) : StepResult :=
  operate s
    [(decide (s.payloadLen < 1) || Config.exceedsMaxLen s.payloadLen, .badLength),
     (digitOver 8 s.payload, .digitRange)]
    s (scalarResult (checksum s.elements))

end Machine
end Sys2Proof
end

