-- ==== Sys2Proof/Machine/Cipher.lean ====
section
/-!
DEFINITION. The Stream Cipher unit: `CIPH.DEC`, `CIPH.ENC` (spec/44_cipher.md rules R170 to R173). It has no registers;
its Generator is a shadow instance (R36, R178).
-/

namespace Sys2Proof
namespace Machine

/-- `(b + sign * x) mod 256`, the least non-negative residue (R10, R170). -/
def combine (sign : Int) (b x : Nat) : Nat := (((b : Int) + sign * (x : Int)) % 256).toNat

/-- The byte loop of R170 from byte 2 on: one draw for each byte, ascending. -/
def cipherTail (sign : Int) : List Nat → Generator → List Nat
  | [], _ => []
  | b :: bs, g => combine sign b g.draw.2 :: cipherTail sign bs g.draw.1

/-- `remain` of R170 and R173. -/
def remainBits (len : Nat) : Nat := 8 - len * 8 % 6

/-- The final mask of R173 on the last byte of the output. -/
def maskLast (out : List Nat) : List Nat :=
  out.modify (out.length - 1) (· &&& (2 ^ remainBits out.length - 1))

/-- `cipher(buffer, sign)` of R170, for a buffer of at least two bytes. -/
def cipher (sign : Int) : List Nat → List Nat
  | b0 :: b1 :: rest => maskLast (b0 :: b1 :: cipherTail sign rest (Generator.seeded (b0 ||| (b1 <<< 8))))
  | short => short

/-- The checks of `CIPH.DEC` and `CIPH.ENC` (R171, R172). -/
def cipherChecks (s : State) : List Check :=
  [(decide (s.payloadLen < 2) || Config.exceedsMaxLen s.payloadLen, .badLength),
   (digitOver 8 s.payload, .digitRange)]

/-- `CIPH.DEC buffer` (R171): `sign = -1`. -/
def execCiphDec (s : State) : StepResult :=
  operate s (cipherChecks s) s (seqResult (cipher (-1) s.elements))

/-- `CIPH.ENC buffer` (R172): `sign = +1`. -/
def execCiphEnc (s : State) : StepResult :=
  operate s (cipherChecks s) s (seqResult (cipher 1 s.elements))

end Machine
end Sys2Proof
end

