-- ==== Sys2Proof/Machine/Crc32.lean ====
section
/-!
DEFINITION. The CRC32 unit: `CRC.INIT`, `CRC.UPD`, `CRC.FIN`, `CRC32`, `REVIVE` (spec/46_crc32.md rules R195 to R201).
-/

namespace Sys2Proof
namespace Machine

/-- `crc32(bytes)` of R196. -/
def crcOf (bytes : List Nat) : Word := crcFinal (bytes.foldl crcStep 0xFFFFFFFF#32)

/-- The revive mask, the low 30 bits (R7, R201). -/
def reviveMask : Word := 0x3FFFFFFF#32

/-- `CRC.INIT` (R197). -/
def execCrcInit (s : State) : StepResult :=
  operate s [(s.payloadGiven, .badLength)] (s.setCrc Crc.init) []

/-- `CRC.UPD byte` (R198). -/
def execCrcUpd (byte : Nat) (s : State) : StepResult :=
  operate s
    [(!s.crc.valid, .notReady),
     (s.payloadGiven, .badLength)]
    (s.setCrc { s.crc with r := crcStep s.crc.r byte }) []

/-- `CRC.FIN` (R199). -/
def execCrcFin (s : State) : StepResult :=
  operate s
    [(!s.crc.valid, .notReady),
     (s.payloadGiven, .badLength)]
    s.closeCrc [crcFinal s.crc.r]

/-- The checks of `CRC32` and `REVIVE` (R200, R201). -/
def crcChecks (s : State) : List Check :=
  [(Config.exceedsMaxLen s.payloadLen, .badLength),
   (digitOver 8 s.payload, .digitRange)]

/-- `CRC32 bytes` (R200). -/
def execCrc32 (s : State) : StepResult :=
  operate s (crcChecks s) s [crcOf s.elements]

/-- `REVIVE bytes` (R201): the mask is applied to the finished CRC. -/
def execRevive (s : State) : StepResult :=
  operate s (crcChecks s) s [crcOf s.elements &&& reviveMask]

end Machine
end Sys2Proof
end

