-- ==== Sys2Proof/Machine/Generator.lean ====
section
/-!
DEFINITION. The Generator unit: `GEN.SEED`, `GEN.NEXT` (spec/43_generator.md rules R150 to R156).
-/

namespace Sys2Proof
namespace Machine

/-- `GEN.SEED seed` (R151). -/
def execGenSeed (seed : Nat) (s : State) : StepResult :=
  operate s [(s.payloadGiven, .badLength)] (s.setGen (Generator.seeded seed)) []

/-- `GEN.NEXT` (R156). -/
def execGenNext (s : State) : StepResult :=
  operate s
    [(!s.gen.valid, .notReady),
     (s.payloadGiven, .badLength)]
    (s.setGen s.gen.draw.1) (scalarResult s.gen.draw.2)

end Machine
end Sys2Proof
end

