-- ==== Sys2Proof/Machine/Permutation.lean ====
section
/-!
DEFINITION. The Permutation unit: `SHUF`, `UNSHUF` (spec/42_permutation.md rules R140 to R142). The two functions take
the table as an argument; the operations give them `PERM`, of which nothing but its being a bijection is known.
-/

namespace Sys2Proof
namespace Machine

/-- `shuffle` of R141: `result[PERM[i]] <- code[i]` for `i` from 0 to 29. -/
def shuffle (perm : Equiv.Perm (Fin 30)) (code : List Word) : List Word :=
  (List.finRange 30).foldl (fun result i => result.set (perm i).val (code.getD i.val 0#32)) (List.replicate 30 0#32)

/-- `unshuffle` of R142: `result[i] <- code[PERM[i]]` for `i` from 0 to 29. -/
def unshuffle (perm : Equiv.Perm (Fin 30)) (code : List Word) : List Word :=
  (List.finRange 30).map fun i => code.getD (perm i).val 0#32

/-- The checks of `SHUF` and `UNSHUF`: exactly 30 elements, each below 64 (R141, R142). -/
def passwordChecks (s : State) : List Check :=
  [(decide (s.payloadLen ≠ Config.nsym), .badLength),
   (digitOver Config.symw s.payload, .digitRange)]

/-- `SHUF code` (R141). -/
def execShuf (s : State) : StepResult :=
  operate s (passwordChecks s) s (shuffle Config.perm s.payload)

/-- `UNSHUF code` (R142). -/
def execUnshuf (s : State) : StepResult :=
  operate s (passwordChecks s) s (unshuffle Config.perm s.payload)

end Machine
end Sys2Proof
end

