-- ==== Sys2Proof/Machine/Status.lean ====
section
/-!
DEFINITION. The status operation `STAT` (spec/47_status.md rules R210 to R212), the one operation that is performed
while a fault is recorded.
-/

namespace Sys2Proof
namespace Machine

/-- The two words `STAT` returns (R210). -/
def State.statusImage (s : State) : List Word := [s.statusWord, s.fcmd]

/-- `STAT` (R210, R212). A payload is refused with `BAD_LENGTH` (R82, R260), faulted or not: step 1 of R261 exempts the
command word 0x00000000, so the payload count is what fails. While a fault is recorded the refusal is an answer only,
for there is no second record (R262, R263). DEDUCED, log entry 6. -/
def execStat (s : State) : StepResult :=
  .next (if s.payloadGiven then
      (if s.faulted then s.respond FaultCode.badLength.code [] else s.raise .badLength)
    else s.respond statusOk s.statusImage)

end Machine
end Sys2Proof
end

