-- ==== Sys2Proof/Machine/Dispatch.lean ====
section
/-! DEFINITION. The dispatch of an operation to its meaning, one arm per constructor of `Instr`. -/

namespace Sys2Proof
namespace Machine

/-- The meaning of an operation on the transaction that the state holds (spec/30_encoding.md rule R84). -/
def exec (i : Instr) (s : State) : Host.Outcome State Fault Refusal :=
  match i with
  | .stat => Sys2Proof.Machine.execStat s
  | .rdLoad sw => Sys2Proof.Machine.execRdLoad sw s
  | .rdRead n => Sys2Proof.Machine.execRdRead n s
  | .rdRem => Sys2Proof.Machine.execRdRem s
  | .wrInit dw => Sys2Proof.Machine.execWrInit dw s
  | .wrWrite n => Sys2Proof.Machine.execWrWrite n s
  | .wrFin => Sys2Proof.Machine.execWrFin s
  | .bitpack sw dw => Sys2Proof.Machine.execBitpack sw dw s
  | .shuf => Sys2Proof.Machine.execShuf s
  | .unshuf => Sys2Proof.Machine.execUnshuf s
  | .genSeed seed => Sys2Proof.Machine.execGenSeed seed s
  | .genNext => Sys2Proof.Machine.execGenNext s
  | .ciphDec => Sys2Proof.Machine.execCiphDec s
  | .ciphEnc => Sys2Proof.Machine.execCiphEnc s
  | .chkInit => Sys2Proof.Machine.execChkInit s
  | .chkUpd byte => Sys2Proof.Machine.execChkUpd byte s
  | .chkFin => Sys2Proof.Machine.execChkFin s
  | .chksum => Sys2Proof.Machine.execChksum s
  | .crcInit => Sys2Proof.Machine.execCrcInit s
  | .crcUpd byte => Sys2Proof.Machine.execCrcUpd byte s
  | .crcFin => Sys2Proof.Machine.execCrcFin s
  | .crc32 => Sys2Proof.Machine.execCrc32 s
  | .revive => Sys2Proof.Machine.execRevive s

end Machine
end Sys2Proof
end

