-- ==== Sys2Proof/Machine/Step.lean ====
section
/-!
DEFINITION. One step of the block: the host's next move, taken whole (spec/00_scope.md rule R9, spec/20_memory.md rule
R70). How a program comes to run from the reset state is log entry 7.
-/

namespace Sys2Proof
namespace Machine

/-- One step: a transaction is decoded and performed or refused (R84, R88), a reset takes place (R290), and with no move
of the host the block waits unchanged (R262, R296 H6). -/
def step (s : State) : Host.Outcome State Fault Refusal :=
  match s.nextMove with
  | .none => .next s
  | .reset t => .next t.resetBlock
  | .transaction t =>
    match decode t.cmd with
    | .ok i => exec i t
    | .error _ => illegalCommand t

/-- `s` with the command word `w` as the host's next transaction. A sequence or scalar payload is no part of the command
word: it is the least number of zero words that the operation admits. -/
def State.withFetchWord (s : State) (nbits w : Nat) : State :=
  let word : Word := BitVec.ofNat 32 (w % 2 ^ nbits)
  s.submit word (zeroPayload word)

end Machine
end Sys2Proof
end

