-- ==== Sys2Proof/Machine/Alphabet.lean ====
section
/-!
DEFINITION. The host's Symbol Alphabet and password text (spec/48_host_pipeline.md rules R220 to R226). None of it is
state or behaviour of the block (spec/00_scope.md rule R5).
-/

namespace Sys2Proof
namespace Machine

/-- Why the host's software stops (R250), or that the block refused a transaction with the given status: a host that
starts the two macros with no fault recorded never meets it (R250). `ChecksumMismatch` and `FieldOutOfRange` stop nothing: the first is `Record.valid`, the
second and `UnencodableCharacter` belong to external tables (R248). -/
inductive SoftwareError where
  /-- Text of a length other than 60. -/
  | invalidLength
  /-- A two-character group that is no alphabet entry. -/
  | invalidSymbol
  /-- The block answered with a status other than `OK`. -/
  | blockRefused (status : BitVec 8)
  deriving DecidableEq, Repr

/-- A Symbol wraps an index 0 to 63 (R223). -/
abbrev Symbol := Fin 64

/-- The thirteen ranks, in order (R220; 90_conflicts.md C3). -/
def rankChars : List Char := ['1', '2', '3', '4', '5', '6', '7', '8', '9', 'P', 'M', 'D', 'X']

/-- The five suits, in order: fire, heart, water, emerald, star (R220). -/
def suitChars : List Char := ['f', 'h', 'w', 'e', 's']

/-- `symbol_at` (R222): `index = 13 * suit + rank` (R221). -/
def symbolAt (i : Symbol) : Char × Char :=
  (rankChars.getD (i.val % 13) '1', suitChars.getD (i.val / 13) 'f')

/-- `index_of` (R222): case-insensitive; the omitted entry `Xs`, which would be index 64, is not recognised (C9). -/
def indexOf (rank suit : Char) : Except SoftwareError Symbol :=
  match rankChars.idxOf? rank.toUpper, suitChars.idxOf? suit.toLower with
  | some r, some u => if h : 13 * u + r < 64 then .ok ⟨13 * u + r, h⟩ else .error .invalidSymbol
  | _, _ => .error .invalidSymbol

/-- `successor`, cyclic (R223): `Fin` addition is modulo 64. -/
def successor (i : Symbol) : Symbol := i + 1

/-- `predecessor`, cyclic (R223). -/
def predecessor (i : Symbol) : Symbol := i - 1

/-- The consecutive two-character groups of a text (R226). -/
def parseGroups : List Char → Except SoftwareError (List Symbol)
  | a :: b :: rest => do
    let x ← indexOf a b
    let xs ← parseGroups rest
    pure (x :: xs)
  | _ => .ok []

/-- Text to Password (R226): the length is checked first. -/
def parseText (text : List Char) : Except SoftwareError (List Symbol) :=
  if text.length ≠ 60 then .error .invalidLength else parseGroups text

/-- Password to text (R226). -/
def showText (symbols : List Symbol) : List Char :=
  symbols.flatMap fun i => [(symbolAt i).1, (symbolAt i).2]

end Machine
end Sys2Proof
end

