-- ==== Sys2Proof/Machine/Record.lean ====
section
/-!
DEFINITION. The host's Record (spec/48_host_pipeline.md rules R240, R243) and its flat key/value interchange form (R251).
Every type here is a plain immutable value: an edit makes a new Record. None of it is state or behaviour of the block
(spec/00_scope.md rule R5).
-/

namespace Sys2Proof
namespace Machine

/-! ### The Record (R240, R243) -/

/-- The fields that only a rescue record has (R240). -/
structure RescueFields where
  dungeon : Nat
  floor : Nat
  pokemon : Nat
  gender : Nat
  reward : Nat
  unk2 : Nat
  deriving DecidableEq, Repr

/-- The two variants of a Record (R243): a rescue record's `revive` is derived, never stored in the bitstream; a revival
record's is a field. -/
inductive Variant where
  | rescue (fields : RescueFields) (revive : Nat)
  | revival (revive : Nat)
  deriving DecidableEq, Repr

/-- A Record (R243): the common header, the variant, the stored checksum byte and the recomputed one. `unk1` and `unk2`
are opaque bits (R251). -/
structure Record where
  timestamp : Nat
  unk1 : Nat
  team : List Nat
  variant : Variant
  checksum : Byte
  calculated : Byte
  deriving DecidableEq, Repr

/-- A Record is valid when the two checksums match (R243); a mismatch is no fault (R250). -/
def Record.valid (r : Record) : Bool := decide (r.checksum = r.calculated)

/-- The field `type` (R240): 0 for a rescue, 1 for a revival. -/
def Variant.typeBit : Variant → Nat
  | .rescue _ _ => 0
  | .revival _ => 1

/-- The revive value, derived or stored (R243). -/
def Variant.revive : Variant → Nat
  | .rescue _ revive => revive
  | .revival revive => revive

/-- A revival record built from a record's `revive` and header by copy-with-replacement (R251). -/
def Record.toRevival (r : Record) : Record := { r with variant := .revival r.variant.revive }

/-! ### The interchange form (R251) -/

/-- The keys of the flat form: the fields of R240 and the two checksums of R243, with the twelve `team_char` under one
key. DESIGN CHOICE, log entry 14: the spec names the fields and gives no list of keys. -/
inductive FlatKey where
  | type
  | timestamp
  | unk1
  | teamName
  | dungeon
  | floor
  | pokemon
  | gender
  | reward
  | unk2
  | revive
  | checksum
  | calculatedChecksum
  deriving DecidableEq, Repr

/-- A value of the flat form: a number, or the team's character codes. -/
inductive FlatValue where
  | number (n : Nat)
  | codes (cs : List Nat)
  deriving DecidableEq, Repr

/-- "A flat key/value structure" (R251). -/
abbrev FlatRecord := List (FlatKey × FlatValue)

/-- The number under a key. -/
def numberAt (f : FlatRecord) (k : FlatKey) : Option Nat :=
  match f.lookup k with
  | some (.number n) => some n
  | some (.codes _) => none
  | none => none

/-- The character codes under a key. -/
def codesAt (f : FlatRecord) (k : FlatKey) : Option (List Nat) :=
  match f.lookup k with
  | some (.codes cs) => some cs
  | some (.number _) => none
  | none => none

/-- The byte under a key. -/
def byteAt (f : FlatRecord) (k : FlatKey) : Option Byte :=
  (numberAt f k).bind fun n => if n < 256 then some (BitVec.ofNat 8 n) else none

/-- The keys that only a rescue record has (R240). -/
def rescueKeys : List FlatKey := [.dungeon, .floor, .pokemon, .gender, .reward, .unk2]

/-- The optional field group of a variant. -/
def Variant.toFlat : Variant → FlatRecord
  | .rescue f revive =>
    [(.dungeon, .number f.dungeon), (.floor, .number f.floor), (.pokemon, .number f.pokemon),
     (.gender, .number f.gender), (.reward, .number f.reward), (.unk2, .number f.unk2), (.revive, .number revive)]
  | .revival revive => [(.revive, .number revive)]

/-- A Record in interchange form: `type`, the header, the group that `type` selects, the two checksums. -/
def Record.toFlat (r : Record) : FlatRecord :=
  [(.type, .number r.variant.typeBit), (.timestamp, .number r.timestamp), (.unk1, .number r.unk1),
   (.teamName, .codes r.team)] ++
  r.variant.toFlat ++
  [(.checksum, .number r.checksum.toNat), (.calculatedChecksum, .number r.calculated.toNat)]

/-- The rescue group: all six fields and the derived `revive` are required. -/
def rescueOfFlat (f : FlatRecord) : Option Variant := do
  let dungeon ← numberAt f .dungeon
  let floor ← numberAt f .floor
  let pokemon ← numberAt f .pokemon
  let gender ← numberAt f .gender
  let reward ← numberAt f .reward
  let unk2 ← numberAt f .unk2
  let revive ← numberAt f .revive
  pure (.rescue
    { dungeon := dungeon, floor := floor, pokemon := pokemon, gender := gender, reward := reward, unk2 := unk2 } revive)

/-- The revival group: `revive` is required, and no rescue field is present. -/
def revivalOfFlat (f : FlatRecord) : Option Variant :=
  if rescueKeys.all fun k => (f.lookup k).isNone then (numberAt f .revive).map .revival else none

/-- "`type` discriminates which optional field group is present/required" (R251). -/
def variantOfFlat (f : FlatRecord) : Option Variant :=
  match numberAt f .type with
  | some 0 => rescueOfFlat f
  | some 1 => revivalOfFlat f
  | _ => none

/-- A Record from its interchange form, `none` where a required key is missing or holds another kind of value. A key
given twice counts once, the first; the order of the keys is free. DESIGN CHOICE, log entry 14. -/
def Record.ofFlat (f : FlatRecord) : Option Record := do
  let timestamp ← numberAt f .timestamp
  let unk1 ← numberAt f .unk1
  let team ← codesAt f .teamName
  let variant ← variantOfFlat f
  let checksum ← byteAt f .checksum
  let calculated ← byteAt f .calculatedChecksum
  pure
    { timestamp := timestamp
      unk1 := unk1
      team := team
      variant := variant
      checksum := checksum
      calculated := calculated }

end Machine
end Sys2Proof
end

