-- ==== Sys2Proof/Machine/Pipeline.lean ====
section
/-!
DEFINITION. The host's Field Codec and Codec Pipeline as sequences of transactions with the block
(spec/48_host_pipeline.md rules R240 to R247, spec/30_encoding.md rule R91). The host is not part of the block
(spec/00_scope.md rule R5): every operation below is a step of the block on a submitted transaction.
-/

namespace Sys2Proof
namespace Machine

/-- The host issues one operation and waits for its response (R296 H1, H2): the result words and the block afterwards. -/
def callBlock (i : Instr) (payload : List Word) (s : State) : Except SoftwareError (List Word × State) :=
  match step (s.submit (encode i) payload) with
  | .next t =>
    match t.outbox.getLast? with
    | some r => if r.status = statusOk then .ok (r.result, t) else .error (.blockRefused r.status)
    | none => .error (.blockRefused statusOk)
  | .fault _ => .error (.blockRefused statusOk)
  | .refused _ => .error (.blockRefused statusOk)

/-- `EXPAND s`, that is `BITPACK 6, 8, s` (R91). -/
def expand (digits : List Word) (s : State) : Except SoftwareError (List Word × State) :=
  callBlock (.bitpack 6 8) digits s

/-- `CONTRACT s`, that is `BITPACK 8, 6, s` (R91). -/
def contract (digits : List Word) (s : State) : Except SoftwareError (List Word × State) :=
  callBlock (.bitpack 8 6) digits s

/-! ### The Field Codec (R240 to R242) -/

/-- The widths of the common fields: `timestamp`, `type`, `unk1`, twelve `team_char` (R240). -/
def commonWidths : List Nat := [32, 1, 1] ++ List.replicate 12 9

/-- The widths of the rescue fields (R240). -/
def rescueWidths : List Nat := [7, 7, 11, 2, 2, 1]

/-- The width of the stored `revive` (R240). -/
def revivalWidths : List Nat := [30]

/-- `RD.READ` of each width in turn (R241). -/
def readFields : List Nat → State → Except SoftwareError (List Nat × State)
  | [], s => .ok ([], s)
  | n :: ns, s => do
    let (v, s1) ← callBlock (.rdRead n) [] s
    let (vs, s2) ← readFields ns s1
    pure ((v.headD 0#32).toNat :: vs, s2)

/-- `WR.WRITE` of each width and value in turn (R242). -/
def writeFields : List (Nat × Nat) → State → Except SoftwareError State
  | [], s => .ok s
  | (n, v) :: fs, s => do
    let (_, s1) ← callBlock (.wrWrite n) [toWord v] s
    writeFields fs s1

/-- What `decode_fields` reads: `timestamp`, `type`, `unk1`, the team codes, and the variant's fields in order. -/
structure RawFields where
  common : List Nat
  tail : List Nat
  deriving DecidableEq, Repr

/-- `decode_fields` (R241): the tail is chosen by `type`. -/
def decodeFields (body : List Word) (s : State) : Except SoftwareError (RawFields × State) := do
  let (_, s1) ← callBlock (.rdLoad 8) body s
  let (common, s2) ← readFields commonWidths s1
  let (tail, s3) ← readFields (if common.getD 1 0 = 0 then rescueWidths else revivalWidths) s2
  pure ({ common := common, tail := tail }, s3)

/-- The twelve team slots, unused ones zero (R242). DESIGN CHOICE, log entry 13: of a team of more than twelve codes, on
which the spec is silent, the first twelve are taken. -/
def teamSlots (team : List Nat) : List Nat := (team ++ List.replicate 12 0).take 12

/-- The fields of a variant in serialization order (R240). -/
def Variant.tail : Variant → List Nat
  | .rescue f _ => [f.dungeon, f.floor, f.pokemon, f.gender, f.reward, f.unk2]
  | .revival revive => [revive]

/-- The widths of a variant's fields (R240). -/
def Variant.widths : Variant → List Nat
  | .rescue _ _ => rescueWidths
  | .revival _ => revivalWidths

/-- `encode_fields` (R242). -/
def encodeFields (r : Record) (s : State) : Except SoftwareError (List Word × State) := do
  let (_, s1) ← callBlock (.wrInit 8) [] s
  let common := [r.timestamp, r.variant.typeBit, r.unk1] ++ teamSlots r.team
  let s2 ← writeFields (commonWidths.zip common) s1
  let s3 ← writeFields (r.variant.widths.zip r.variant.tail) s2
  callBlock .wrFin [] s3

/-! ### The pipeline (R245, R246) -/

/-- The variant from the fields read; a rescue record's `revive` is derived by `REVIVE` over the transliteration of the
password as typed (R245 step 9, R247, R301). -/
def decodeVariant (wire : List Nat) (raw : RawFields) (s : State) : Except SoftwareError (Variant × State) :=
  if raw.common.getD 1 0 = 0 then do
    let (rv, s1) ← callBlock .revive ((Config.translit wire).map (BitVec.setWidth 32)) s
    let fields : RescueFields :=
      { dungeon := raw.tail.getD 0 0
        floor := raw.tail.getD 1 0
        pokemon := raw.tail.getD 2 0
        gender := raw.tail.getD 3 0
        reward := raw.tail.getD 4 0
        unk2 := raw.tail.getD 5 0 }
    pure (.rescue fields (rv.headD 0#32).toNat, s1)
  else
    .ok (.revival (raw.tail.getD 0 0), s)

/-- Steps 3 to 9 of `PW.DECODE` (R245), from a password in wire order. -/
def decodePassword (wire : List Nat) (s : State) : Except SoftwareError (Record × State) := do
  let (ser, s3) ← callBlock .unshuf (seqResult wire) s
  let (raw, s4) ← expand ser s3
  let (dec, s5) ← callBlock .ciphDec raw s4
  let stored : Byte := (dec.headD 0#32).setWidth 8
  let body := dec.drop 1
  let (sumByte, s7) ← callBlock .chksum body s5
  let (fields, s8) ← decodeFields body s7
  let (variant, s9) ← decodeVariant wire fields s8
  pure
    ({ timestamp := fields.common.getD 0 0
       unk1 := fields.common.getD 2 0
       team := fields.common.drop 3
       variant := variant
       checksum := stored
       calculated := (sumByte.headD 0#32).setWidth 8 }, s9)

/-- `PW.DECODE text` (R245). -/
def pwDecode (text : List Char) (s : State) : Except SoftwareError (Record × State) := do
  let wire ← parseText text
  decodePassword (wire.map Fin.val) s

/-- Steps 2 to 8 of `PW.ENCODE` (R246): the password in wire order. The 31st digit is dropped by the host (step 7,
R300). -/
def encodePassword (r : Record) (keepOriginalChecksum : Bool) (s : State) :
    Except SoftwareError (List Word × State) := do
  let (body, s2) ← encodeFields r s
  let (chk, s3) ← if keepOriginalChecksum then pure ([r.checksum.setWidth 32], s2) else callBlock .chksum body s2
  let (enc, s5) ← callBlock .ciphEnc (chk ++ body) s3
  let (dig, s6) ← contract enc s5
  callBlock .shuf (dig.take Config.nsym) s6

/-- `PW.ENCODE record, keep_original_checksum` (R246, R244). The map from team-name characters to codes is not in the
source (R248), so the Record holds the codes. Log entry 12. -/
def pwEncode (r : Record) (keepOriginalChecksum : Bool) (s : State) : Except SoftwareError (List Char × State) := do
  let (wire, s8) ← encodePassword r keepOriginalChecksum s
  pure (showText (wire.map fun w => Fin.ofNat 64 w.toNat), s8)

end Machine
end Sys2Proof
end

