-- ==== Sys2Proof/Safety.lean ====
section
/-!
DEFINITION. What a good state is, what a run is, and the vocabulary in which the statements speak: the bit string of a
digit sequence (spec/00_scope.md rule R11), the invariants the spec derives (spec/10_state.md rules R23, R25, R27, R28,
R33; spec/43_generator.md rules R157, R159), states that differ only in unspecified registers (R37), and the closed
forms of the units' laws.
-/

namespace Sys2Proof
namespace Machine

/-! ### Invariants -/

/-- A sequence of this length fits the block (R7, P2). -/
abbrev AtMostMaxLen (len : Nat) : Prop := Config.exceedsMaxLen len = false

/-- Every element is below `2^w` (R11). -/
abbrev DigitsBelow (w : Nat) (ds : List Word) : Prop := ∀ d ∈ ds, d.toNat < 2 ^ w

/-- The Reader's invariants (R22, R23). -/
def Reader.Inv (r : Reader) : Prop :=
  r.valid = true →
    1 ≤ r.sw ∧ r.sw ≤ 32 ∧ r.len = r.src.length ∧ AtMostMaxLen r.len ∧ DigitsBelow r.sw r.src ∧
    r.pos ≤ r.len ∧ r.acc < 2 ^ r.cnt ∧ r.cnt < r.sw

/-- The Writer's invariants (R24, R25). -/
def Writer.Inv (w : Writer) : Prop :=
  w.valid = true →
    1 ≤ w.dw ∧ w.dw ≤ 32 ∧ AtMostMaxLen w.out.length ∧ DigitsBelow w.dw w.out ∧ w.acc < 2 ^ w.cnt ∧ w.cnt < w.dw

/-- The Generator's invariants (R26, R27, R157, R159): the range of the entries, entry 0, and the cursors, which stay 21
apart on the ring of 55. -/
def Generator.Inv (g : Generator) : Prop :=
  g.valid = true →
    entryOf g.s 0 = 0 ∧ (∀ i, i ≤ 55 → entryOf g.s i < Config.big) ∧
    g.i1 ≤ 55 ∧ 1 ≤ g.i2 ∧ g.i2 ≤ 55 ∧ (g.i2 = g.i1 + 21 ∨ g.i2 + 34 = g.i1)

/-- The Checksum's invariants (R28). -/
def Checksum.Inv (c : Checksum) : Prop :=
  c.valid = true → c.sum < 2 ^ 32 ∧ c.pend < 256

/-- The fault record holds a code from 0 to 6, and no command word while the code is 0 (R33). -/
def State.RecordInv (s : State) : Prop :=
  s.faultCode.toNat ≤ 6 ∧ (s.faultCode = 0#8 → s.fcmd = 0#32)

/-- Every response given has a status of R260, and results only with `OK` (R83). -/
def State.ResponsesInv (s : State) : Prop :=
  ∀ r ∈ s.outbox, r.status.toNat ≤ 7 ∧ (r.status ≠ 0#8 → r.result = [])

/-- The invariant of the block. -/
structure State.Inv (s : State) : Prop where
  rd : s.rd.Inv
  wr : s.wr.Inv
  gen : s.gen.Inv
  chk : s.chk.Inv
  record : s.RecordInv
  responses : s.ResponsesInv

/-! ### States the host cannot tell apart -/

/-- The two states have the same record, the same traffic and the same flags, and agree on the registers of every valid
unit: they differ only in registers that are unspecified and unreadable (R37, U1, U2), and in the model's own fields. -/
structure State.Agree (s t : State) : Prop where
  rdValid : s.rd.valid = t.rd.valid
  rd : s.rd.valid = true → s.rd = t.rd
  wrValid : s.wr.valid = t.wr.valid
  wr : s.wr.valid = true → s.wr = t.wr
  genValid : s.gen.valid = t.gen.valid
  gen : s.gen.valid = true → s.gen = t.gen
  chkValid : s.chk.valid = t.chk.valid
  chk : s.chk.valid = true → s.chk = t.chk
  crcValid : s.crc.valid = t.crc.valid
  crc : s.crc.valid = true → s.crc = t.crc
  faultCode : s.faultCode = t.faultCode
  fcmd : s.fcmd = t.fcmd
  inbox : s.inbox = t.inbox
  outbox : s.outbox = t.outbox

/-! ### Runs -/

/-- The transaction of an operation (R80). -/
def issue (i : Instr) (payload : List Word) : HostMove := .transaction (encode i) payload

/-- The block run on exactly these moves of the host. -/
def State.runMoves (s : State) (moves : List HostMove) : StepResult :=
  Sys2Proof.core.run moves.length ({ s with inbox := moves } : State)

/-- The responses a run leaves behind. -/
def responsesOf : StepResult → List Response
  | .next t => t.outbox
  | .fault _ => []
  | .refused _ => []

/-- The last response given. -/
def State.lastResponse (s : State) : Option Response := s.outbox.getLast?

end Machine

/-- The whole-sequence operations (R36). -/
def Instr.wholeSequence : Instr → Bool
  | .bitpack _ _ => true
  | .shuf => true
  | .unshuf => true
  | .ciphDec => true
  | .ciphEnc => true
  | .chksum => true
  | .crc32 => true
  | .revive => true
  | .stat => false
  | .rdLoad _ => false
  | .rdRead _ => false
  | .rdRem => false
  | .wrInit _ => false
  | .wrWrite _ => false
  | .wrFin => false
  | .genSeed _ => false
  | .genNext => false
  | .chkInit => false
  | .chkUpd _ => false
  | .chkFin => false
  | .crcInit => false
  | .crcUpd _ => false
  | .crcFin => false

namespace Machine

/-- The state with other units, and everything else the same. -/
def State.withUnits (s : State) (rd : Reader) (wr : Writer) (gen : Generator) (chk : Checksum) (crc : Crc) : State :=
  { s with rd := rd, wr := wr, gen := gen, chk := chk, crc := crc }

/-- The state with this transaction taken from the front of the host's moves. -/
def State.latched (s : State) (w : Word) (p : List Word) (rest : List HostMove) : State :=
  { s with inbox := rest, cmd := w, payload := p }

/-! ### Answers -/

/-- The state with a response `OK` added. -/
def State.answered (s : State) (result : List Word) : State :=
  { s with outbox := s.outbox ++ [{ status := 0#8, result := result }] }

/-- The effect of `raise Fault(CODE)` as R262 writes it. -/
def State.faultTaken (s : State) (code : Byte) : State :=
  { s with faultCode := code, fcmd := s.cmd, outbox := s.outbox ++ [{ status := code, result := [] }] }

/-- The state with a response of this status and no result words added, and nothing else changed. -/
def State.turnedAway (s : State) (status : Byte) : State :=
  { s with outbox := s.outbox ++ [{ status := status, result := [] }] }

/-! ### Bit strings (R11) -/

/-- `bits_w(d)(k)` of R11, as 0 or 1: zero beyond the last digit. -/
def bitAt (w : Nat) (ds : List Nat) (k : Nat) : Nat := (ds.getD (k / w) 0 >>> (k % w)) % 2

/-- The integer whose bit `j` is `f j` for `j < n`. -/
def numberOf (n : Nat) (f : Nat → Nat) : Nat := ∑ j ∈ Finset.range n, f j * 2 ^ j

/-- The bit string of R119: each value's `n` low bits in turn, as one integer, and its length in bits. -/
def writtenNumber : List (Nat × Nat) → Nat
  | [] => 0
  | (n, v) :: rest => v % 2 ^ n + 2 ^ n * writtenNumber rest

/-- The number of bits written. -/
def writtenBits (ws : List (Nat × Nat)) : Nat := (ws.map Prod.fst).sum

/-- Digit `k` of an integer cut into digits of width `w`. -/
def cutDigit (w v k : Nat) : Nat := v / 2 ^ (k * w) % 2 ^ w

/-! ### Closed forms of the Reader and the Writer -/

/-- How many source digits `RD.READ n` takes from a valid Reader. -/
def Reader.digitsTaken (r : Reader) (n : Nat) : Nat :=
  if n ≤ r.cnt then 0 else min (r.len - r.pos) (ceilDiv (n - r.cnt) r.sw)

/-- The retained bits with the next `k` source digits above them, as one integer. -/
def Reader.buffered (r : Reader) (k : Nat) : Nat :=
  r.acc + 2 ^ r.cnt * Nat.ofDigits (2 ^ r.sw) (((r.src.drop r.pos).take k).map BitVec.toNat)

/-- The retained bits with the `n` low bits of `value` above them, as one integer. -/
def Writer.buffered (w : Writer) (n value : Nat) : Nat := w.acc + 2 ^ w.cnt * (value % 2 ^ n)

/-! ### The Generator's definition as relations (R150 to R153) -/

/-- `normalize` of R150. -/
def normalized (x : Int) : Int := if x < 0 then x + 0x7FFFFFFF else x

/-- `v` is the array after the placement of R152 for this seed. -/
def IsPlacement (seed : Nat) (v : Vector Nat 56) : Prop :=
  ∃ p : Nat → Nat,
    p 0 = 161803398 - seed ∧ p 1 = 1 ∧
    (∀ i, 1 ≤ i → i ≤ 53 → (p (i + 1) : Int) = normalized ((p (i - 1) : Int) - (p i : Int))) ∧
    entryOf v 0 = 0 ∧ entryOf v 55 = p 0 ∧ ∀ i, 1 ≤ i → i ≤ 54 → entryOf v (21 * i % 55) = p i

/-- `b` is what one pass of R153 makes of `a`: ascending and in place, so a neighbour of smaller index is seen updated. -/
def IsPass (a b : Vector Nat 56) : Prop :=
  entryOf b 0 = entryOf a 0 ∧
  ∀ i, 1 ≤ i → i ≤ 55 →
    (entryOf b i : Int) = normalized ((entryOf a i : Int) -
      (if 1 + (i + 30) % 55 < i then (entryOf b (1 + (i + 30) % 55) : Int)
        else (entryOf a (1 + (i + 30) % 55) : Int)))

/-- The Generator after `k` draws. -/
def Generator.after (g : Generator) : Nat → Generator
  | 0 => g
  | k + 1 => (Generator.after g k).draw.1

/-- The `t`-th output, `t` from 1. -/
def Generator.output (g : Generator) (t : Nat) : Nat := (g.after (t - 1)).draw.2

/-! ### Closed forms of the Cipher, the Checksum and the CRC -/

/-- Byte `j` of `cipher(buffer, sign)` (R170, R173): the seed bytes pass, byte `j` uses draw `j - 1`, and the last byte
keeps its `remain` low bits. -/
def cipherByte (sign : Int) (buffer : List Nat) (j : Nat) : Nat :=
  let seed := buffer.getD 0 0 + 256 * buffer.getD 1 0
  let b := buffer.getD j 0
  let x := (Generator.seeded seed).output (j - 1)
  let out := if j < 2 then b else (((b : Int) + sign * (x : Int)) % 256).toNat
  if j + 1 = buffer.length then out % 2 ^ (8 - buffer.length * 8 % 6) else out

/-- The Checksum after one byte (R185). -/
def Checksum.afterByte (c : Checksum) (byte : Nat) : Checksum :=
  match c.ph with
  | .first => { valid := c.valid, sum := byte, ph := .lo, pend := c.pend }
  | .lo => { valid := c.valid, sum := c.sum, ph := .hi, pend := byte }
  | .hi => { valid := c.valid, sum := c.sum + (c.pend + 256 * byte), ph := .lo, pend := c.pend }

/-- The sum of R181 by index: byte 0, the pairs from index 1, and for an even length the last byte. -/
def indexedSum (code : List Nat) : Nat :=
  code.getD 0 0
    + ∑ k ∈ Finset.range ((code.length - 1) / 2), (code.getD (2 * k + 1) 0 + 256 * code.getD (2 * k + 2) 0)
    + (if code.length % 2 = 0 then code.getD (code.length - 1) 0 else 0)

/-- The closed form of the fold (R189). -/
def foldedSum (a : Nat) : Nat := if a = 0 then 0 else 1 + (a - 1) % 255

/-- One step of the bitwise form of the CRC (R202). -/
def crcBitwiseStep (crc : Word) (byte : Nat) : Word :=
  Nat.repeat (fun c : Word => (c >>> 1) ^^^ (if c.getLsbD 0 then 0xEDB88320#32 else 0#32)) 8 (crc ^^^ toWord byte)

end Machine
end Sys2Proof
end

