-- ==== Sys2Proof/Certificates/Slice0/Obligations.lean ====
section
/-!
DEFINITION. The statements for the provers, each a proposition about the block (OBLIGATIONS.json lists them). A response
of status `OK` is `State.answered`, fault entry (spec/60_exceptions.md rule R262) is `State.faultTaken`, and `2#8` to `6#8`
are the codes of R260; both say by record update that nothing else changes.
-/

open Sys2Proof Sys2Proof.Machine

/-- For every well-formed operation, with every operand at every value its field admits, the decoder reads the encoded
command word as that operation. (30_encoding.md section 2 (R85 to R87).) -/
def Obligations.DecodeOfEncodeIsIdentity : Prop :=
  ∀ i : Instr, i.WellFormed → decode (encode i) = .ok i

/-- Whenever the decoder reads a command word as an operation, that operation is well formed and its encoding is the
word: no bit of a legal word is dropped and no two words mean the same. (30_encoding.md section 4 (R88).) -/
def Obligations.EncodeOfDecodeIsIdentity : Prop :=
  ∀ (w : Word) (i : Instr), decode w = .ok i → i.WellFormed ∧ encode i = w

/-- For every row of the operation map and every word w: w & mask = match exactly when w decodes to an operation with
the row's mnemonic; the rows have different mnemonics, so no word selects two rows. (30_encoding.md section 2
(R86).) -/
def Obligations.DecodeSelectsOperationMapRow : Prop :=
  (∀ row ∈ operationMap, ∀ w : Word,
    w &&& row.mask = row.pattern ↔ ∃ i, decode w = .ok i ∧ i.mnemonic = row.mnemonic) ∧
  (operationMap.map MapRow.mnemonic).Nodup

/-- A word is refused by the decoder exactly when it selects no row of the operation map; 233 of the 256 OPC values have
no row; and, with no fault recorded, a transaction with an illegal word takes the fault ILLEGAL_OP: the record is
written, the response is the code, and nothing else changes. (R88.) -/
def Obligations.IllegalCommandWordsRaiseIllegalOp : Prop :=
  (∀ w : Word, (∃ e, decode w = .error e) ↔ ∀ row ∈ operationMap, w &&& row.mask ≠ row.pattern) ∧
  ((List.range 256).filter fun opc => operationMap.all fun row => row.pattern.toNat / 2 ^ 24 != opc).length = 233 ∧
  (∀ (w : Word) (e : DecodeError), decode w = .error e →
    ∀ (s : State) (p : List Word) (rest : List HostMove), s.inbox = .transaction w p :: rest → s.faultCode = 0#8 →
      step s = .next ((s.latched w p rest).faultTaken 1#8))

/-- Ten command words of the spec's vectors, one or more for each unit, decode to their operations. (95_test_vectors.md
V1, V10 to V15, V20, V40, V51, P6.) -/
def Obligations.SpecCommandWordsDecode : Prop :=
  decode 0x00000000#32 = .ok .stat ∧
  decode 0x10060000#32 = .ok (.rdLoad 6) ∧
  decode 0x11080000#32 = .ok (.rdRead 8) ∧
  decode 0x15200000#32 = .ok (.wrWrite 32) ∧
  decode 0x18060800#32 = .ok (.bitpack 6 8) ∧
  decode 0x20000000#32 = .ok .shuf ∧
  decode 0x3000007B#32 = .ok (.genSeed 123) ∧
  decode 0x40000000#32 = .ok .ciphDec ∧
  decode 0x51000001#32 = .ok (.chkUpd 1) ∧
  decode 0x61000031#32 = .ok (.crcUpd 0x31)

/-- When the host's next move is a transaction whose command word decodes to an operation, the step is that operation's
meaning on the state with the transaction taken and its words latched. (30_encoding.md section 1 (R80, R84);
00_scope.md section 5 (R9).) -/
def Obligations.StepRunsDecodedOperation : Prop :=
  ∀ (s : State) (w : Word) (p : List Word) (rest : List HostMove) (i : Instr),
    s.inbox = .transaction w p :: rest → decode w = .ok i → step s = exec i (s.latched w p rest)

/-- When the host has made no move, a step changes nothing. (70_reset_and_hazards.md section 2 (R296 H6).) -/
def Obligations.IdleBlockKeepsItsState : Prop :=
  ∀ s : State, s.inbox = [] → step s = .next s

/-- From every state the step answers a next state; it takes exactly the host's next move; a transaction adds exactly
one response, a reset or an idle step adds none. That a reset gives no response, and that a step takes one move of
the inbox, is the model's choice (log entry 8); that an idle block does nothing is R296 H6. (30_encoding.md section
1 (R80); 70_reset_and_hazards.md section 2 (R296 H1, H3, H6); 70_reset_and_hazards.md section 4 (R305).) -/
def Obligations.EveryStepAnswersExactlyOnce : Prop :=
  ∀ s : State, ∃ t, step s = .next t ∧ t.inbox = s.inbox.tail ∧
    (∀ w p rest, s.inbox = .transaction w p :: rest → ∃ r, t.outbox = s.outbox ++ [r]) ∧
    ((∀ w p rest, s.inbox ≠ .transaction w p :: rest) → t.outbox = s.outbox)

/-- With a fault recorded, every transaction whose command word is not 0, legal or illegal and whatever its payload, is
answered with status 7 and no result words and nothing else changes; a legal STAT is performed and returns the
recorded code and FCMD. (R263.) -/
def Obligations.FaultedBlockRefusesAllButStat : Prop :=
  ∀ (s : State) (w : Word) (p : List Word) (rest : List HostMove),
    s.inbox = .transaction w p :: rest → s.faultCode ≠ 0#8 →
      (w ≠ 0#32 → step s = .next ((s.latched w p rest).turnedAway 7#8)) ∧
      (w = 0#32 → p = [] → ∃ w0 : Word, w0.setWidth 8 = s.faultCode ∧
        step s = .next ((s.latched w p rest).answered [w0, s.fcmd]))

/-- Whenever a transaction on a block with no fault recorded leaves a fault recorded, the next state is exactly the
fault entry of a code from 1 to 6: FAULT.CODE, FCMD with this transaction's command word, one response with the code
and no result words, and nothing else changed. (R262.) -/
def Obligations.FaultsArePreciseAndAtomic : Prop :=
  ∀ (s t : State) (w : Word) (p : List Word) (rest : List HostMove),
    s.inbox = .transaction w p :: rest → s.faultCode = 0#8 → step s = .next t → t.faultCode ≠ 0#8 →
      ∃ code : Byte, 1 ≤ code.toNat ∧ code.toNat ≤ 6 ∧ t = (s.latched w p rest).faultTaken code

/-- From a state with a fault recorded, a step that is not a reset leaves FAULT.CODE, FCMD and all five units as they
were; and a reset clears FAULT.CODE and FCMD. (R264.) -/
def Obligations.OnlyResetClearsTheFaultRecord : Prop :=
  ∀ s t : State, step s = .next t → s.faultCode ≠ 0#8 →
    ((∀ rest, s.inbox ≠ .reset :: rest) →
      t.faultCode = s.faultCode ∧ t.fcmd = s.fcmd ∧ t.rd = s.rd ∧ t.wr = s.wr ∧ t.gen = s.gen ∧ t.chk = s.chk ∧
        t.crc = s.crc) ∧
    (∀ rest, s.inbox = .reset :: rest →
      t.faultCode = 0#8 ∧ t.fcmd = 0#32 ∧ t.rd.valid = false ∧ t.wr.valid = false ∧ t.gen.valid = false ∧
        t.chk.valid = false ∧ t.crc.valid = false)

/-- A reset move in any state leads to a state with the five VALID flags, FAULT.CODE and FCMD at 0, as R290 assigns
them. That the reset gives no response and leaves the host's later moves and the responses given so far untouched is
the model's choice (log entry 8). (70_reset_and_hazards.md section 1 (R290).) -/
def Obligations.ResetMoveClearsFlagsAndRecord : Prop :=
  ∀ (s : State) (rest : List HostMove), s.inbox = .reset :: rest →
    ∃ t, step s = .next t ∧ t.rd.valid = false ∧ t.wr.valid = false ∧ t.gen.valid = false ∧ t.chk.valid = false ∧
      t.crc.valid = false ∧ t.faultCode = 0#8 ∧ t.fcmd = 0#32 ∧ t.inbox = rest ∧ t.outbox = s.outbox

/-- The reset state has the value of every register the spec gives one: the five VALID flags, FAULT.CODE and FCMD are 0.
(10_state.md section 11 (R37).) -/
def Obligations.ResetStateHasSpecifiedValues : Prop :=
  State.reset.rd.valid = false ∧ State.reset.wr.valid = false ∧ State.reset.gen.valid = false ∧
  State.reset.chk.valid = false ∧ State.reset.crc.valid = false ∧ State.reset.faultCode = 0#8 ∧
  State.reset.fcmd = 0#32

/-- The invariant of the block (ranges and widths of every unit's registers while the unit is valid, the fault record,
the responses) holds in the reset state. (10_state.md sections 2 to 8.) -/
def Obligations.ResetStateSatisfiesInvariant : Prop :=
  State.reset.Inv

/-- From every state that satisfies the invariant, every next state satisfies it: the Reader's and the Writer's bit
counts stay below their widths and their buffers below two to the count, digits stay below two to the width, the
Generator's entries stay in range with its cursors 21 apart, the Checksum's sum stays below 2^32, the fault code
stays at most 6 with FCMD 0 while it is 0, and every response has a known status with results only when OK.
(10_state.md sections 2, 3, 4, 5, 8 (R23, R25, R27, R28, R33); 43_generator.md (R157, R159).) -/
def Obligations.StepKeepsInvariant : Prop :=
  ∀ s t : State, s.Inv → step s = .next t → t.Inv

/-- Two states that agree on the flags, the fault record, the traffic and the registers of valid units, and differ
arbitrarily in the registers of units that are not valid, step to states that agree in the same sense; in particular
they give the same responses. (10_state.md section 11 (R37); 93_implementation_defined.md U1, U2.) -/
def Obligations.UnspecifiedRegistersAreNeverObserved : Prop :=
  ∀ s t s' : State, s.Agree t → step s = .next s' → ∃ t', step t = .next t' ∧ s'.Agree t'

/-- The word 0 and only it decodes to STAT. With no payload, in every state, faulted or not, STAT answers two words: the
fault code with the five VALID flags in bits 8 to 12, and FCMD; nothing but the response changes. (R210.) -/
def Obligations.StatReturnsRecordAndFlags : Prop :=
  (∀ w : Word, decode w = .ok .stat ↔ w = 0#32) ∧
  (∀ s : State, s.payload = [] →
    exec .stat s = .next (s.answered
      [toWord (s.faultCode.toNat + 2 ^ 8 * s.rd.valid.toNat + 2 ^ 9 * s.wr.valid.toNat + 2 ^ 10 * s.gen.valid.toNat +
        2 ^ 11 * s.chk.valid.toNat + 2 ^ 12 * s.crc.valid.toNat), s.fcmd]))

/-- RD.LOAD sw with admitted width, length and digits sets every register of the Reader and answers with no result;
otherwise it takes the fault BAD_WIDTH, BAD_LENGTH or DIGIT_RANGE, the first that applies, and the previous Reader
is kept. (R110.) -/
def Obligations.RdLoadConstructsReader : Prop :=
  (∀ sw, sw < 256 → decode (BitVec.ofNat 32 (0x10000000 + sw * 0x10000)) = .ok (.rdLoad sw)) ∧
  (∀ (sw : Nat) (s : State), s.faultCode = 0#8 → 1 ≤ sw → sw ≤ 32 → AtMostMaxLen s.payload.length →
    DigitsBelow sw s.payload →
    exec (.rdLoad sw) s = .next (State.answered
      { s with rd := { valid := true, sw := sw, src := s.payload, len := s.payload.length, pos := 0, acc := 0, cnt := 0 } }
      [])) ∧
  (∀ (sw : Nat) (s : State), s.faultCode = 0#8 →
    ¬ (1 ≤ sw ∧ sw ≤ 32 ∧ AtMostMaxLen s.payload.length ∧ DigitsBelow sw s.payload) →
    exec (.rdLoad sw) s = .next (s.faultTaken
      (if sw < 1 ∨ 32 < sw then 2#8 else if ¬ AtMostMaxLen s.payload.length then 3#8 else 4#8)))

/-- On a valid Reader that satisfies its invariants RD.READ n, n at most 32, takes as many further digits as it needs
and the source has, answers the n low bits of the buffered bits, and keeps the rest, the count saturating at 0;
otherwise it takes the fault BAD_WIDTH, NOT_READY or BAD_LENGTH, the first that applies. (R112.) -/
def Obligations.RdReadReturnsNextBits : Prop :=
  (∀ n, n < 256 → decode (BitVec.ofNat 32 (0x11000000 + n * 0x10000)) = .ok (.rdRead n)) ∧
  (∀ (n : Nat) (s : State), s.faultCode = 0#8 → n ≤ 32 → s.rd.valid = true → s.payload = [] → s.rd.Inv →
    exec (.rdRead n) s = .next (State.answered
      { s with rd := { s.rd with
          acc := s.rd.buffered (s.rd.digitsTaken n) / 2 ^ n
          cnt := s.rd.cnt + s.rd.digitsTaken n * s.rd.sw - n
          pos := s.rd.pos + s.rd.digitsTaken n } }
      [toWord (s.rd.buffered (s.rd.digitsTaken n) % 2 ^ n)])) ∧
  (∀ (n : Nat) (s : State), s.faultCode = 0#8 → ¬ (n ≤ 32 ∧ s.rd.valid = true ∧ s.payload = []) →
    exec (.rdRead n) s = .next (s.faultTaken
      (if 32 < n then 2#8 else if s.rd.valid = false then 5#8 else 3#8)))

/-- On a valid Reader RD.REM answers 1 when RD.POS is below RD.LEN or RD.CNT is above 0, else 0, and changes nothing
else; otherwise it takes the fault NOT_READY or BAD_LENGTH. (R114.) -/
def Obligations.RdRemReportsUnreadData : Prop :=
  decode 0x12000000#32 = .ok .rdRem ∧
  (∀ s : State, s.faultCode = 0#8 → s.rd.valid = true → s.payload = [] →
    exec .rdRem s = .next (s.answered [if s.rd.pos < s.rd.len ∨ 0 < s.rd.cnt then 1#32 else 0#32])) ∧
  (∀ s : State, s.faultCode = 0#8 → ¬ (s.rd.valid = true ∧ s.payload = []) →
    exec .rdRem s = .next (s.faultTaken (if s.rd.valid = false then 5#8 else 3#8)))

/-- WR.INIT dw with an admitted width and no payload sets every register of the Writer and answers with no result;
otherwise it takes the fault BAD_WIDTH or BAD_LENGTH and the previous Writer is kept. (R116.) -/
def Obligations.WrInitConstructsWriter : Prop :=
  (∀ dw, dw < 256 → decode (BitVec.ofNat 32 (0x14000000 + dw * 0x10000)) = .ok (.wrInit dw)) ∧
  (∀ (dw : Nat) (s : State), s.faultCode = 0#8 → 1 ≤ dw → dw ≤ 32 → s.payload = [] →
    exec (.wrInit dw) s = .next (State.answered
      { s with wr := { valid := true, dw := dw, acc := 0, cnt := 0, out := [] } } [])) ∧
  (∀ (dw : Nat) (s : State), s.faultCode = 0#8 → ¬ (1 ≤ dw ∧ dw ≤ 32 ∧ s.payload = []) →
    exec (.wrInit dw) s = .next (s.faultTaken (if dw < 1 ∨ 32 < dw then 2#8 else 3#8)))

/-- On a valid Writer that satisfies its invariants WR.WRITE n, n at most 32, with one payload word and room in WR.OUT,
places the n low bits of the value above the bits held, moves every complete digit to WR.OUT, and keeps the
remaining bits; otherwise it takes the fault BAD_WIDTH, NOT_READY, BAD_LENGTH or OVERFLOW, the first that applies,
before anything is appended. (R118.) -/
def Obligations.WrWriteAppendsLowBits : Prop :=
  (∀ n, n < 256 → decode (BitVec.ofNat 32 (0x15000000 + n * 0x10000)) = .ok (.wrWrite n)) ∧
  (∀ (n : Nat) (v : Word) (s : State), s.faultCode = 0#8 → n ≤ 32 → s.wr.valid = true → s.payload = [v] →
    AtMostMaxLen (s.wr.out.length + (s.wr.cnt + n) / s.wr.dw) → s.wr.Inv →
    exec (.wrWrite n) s = .next (State.answered
      { s with wr := { s.wr with
          out := s.wr.out ++ (List.range ((s.wr.cnt + n) / s.wr.dw)).map fun k =>
            toWord (cutDigit s.wr.dw (s.wr.buffered n v.toNat) k)
          acc := s.wr.buffered n v.toNat / 2 ^ ((s.wr.cnt + n) / s.wr.dw * s.wr.dw)
          cnt := (s.wr.cnt + n) % s.wr.dw } }
      [])) ∧
  (∀ (n : Nat) (s : State), s.faultCode = 0#8 →
    ¬ (n ≤ 32 ∧ s.wr.valid = true ∧ s.payload.length = 1 ∧
        AtMostMaxLen (s.wr.out.length + (s.wr.cnt + n) / s.wr.dw)) →
    exec (.wrWrite n) s = .next (s.faultTaken
      (if 32 < n then 2#8 else if s.wr.valid = false then 5#8 else if s.payload.length ≠ 1 then 3#8 else 6#8)))

/-- On a valid Writer with room for a partial digit WR.FIN answers WR.OUT, followed by WR.ACC when bits remain, and
clears WR.VALID; the Writer's other registers are then unspecified, and nothing else changes; otherwise it takes the
fault NOT_READY, BAD_LENGTH or OVERFLOW, the first that applies, and clears nothing. (R120.) -/
def Obligations.WrFinReturnsDigits : Prop :=
  decode 0x16000000#32 = .ok .wrFin ∧
  (∀ s : State, s.faultCode = 0#8 → s.wr.valid = true → s.payload = [] →
    (0 < s.wr.cnt → AtMostMaxLen (s.wr.out.length + 1)) →
    ∃ (w : Writer) (k : Nat), w.valid = false ∧
      exec .wrFin s = .next (State.answered { s with wr := w, freeDraws := k }
        (if 0 < s.wr.cnt then s.wr.out ++ [toWord s.wr.acc] else s.wr.out))) ∧
  (∀ s : State, s.faultCode = 0#8 →
    ¬ (s.wr.valid = true ∧ s.payload = [] ∧ (0 < s.wr.cnt → AtMostMaxLen (s.wr.out.length + 1))) →
    exec .wrFin s = .next (s.faultTaken
      (if s.wr.valid = false then 5#8 else if s.payload ≠ [] then 3#8 else 6#8)))

/-- BITPACK sw, dw with admitted widths, digits and lengths answers ceil(L * sw / dw) digits; digit k is the number
whose bit j is bit k * dw + j of the source bit string; no unit changes; otherwise it takes the fault BAD_WIDTH,
BAD_LENGTH, DIGIT_RANGE or OVERFLOW, the first that applies. (41_bitstream.md section 3 (R121, R122).) -/
def Obligations.BitpackRecutsTheBitString : Prop :=
  (∀ sw dw, sw < 256 → dw < 256 →
    decode (BitVec.ofNat 32 (0x18000000 + sw * 0x10000 + dw * 0x100)) = .ok (.bitpack sw dw)) ∧
  (∀ (sw dw : Nat) (s : State), s.faultCode = 0#8 → 1 ≤ sw → sw ≤ 32 → 1 ≤ dw → dw ≤ 32 →
    AtMostMaxLen s.payload.length → DigitsBelow sw s.payload →
    AtMostMaxLen ((s.payload.length * sw + dw - 1) / dw) →
    exec (.bitpack sw dw) s = .next (s.answered
      ((List.range ((s.payload.length * sw + dw - 1) / dw)).map fun k =>
        toWord (numberOf dw fun j => bitAt sw (s.payload.map BitVec.toNat) (k * dw + j))))) ∧
  (∀ (sw dw : Nat) (s : State), s.faultCode = 0#8 →
    ¬ (1 ≤ sw ∧ sw ≤ 32 ∧ 1 ≤ dw ∧ dw ≤ 32 ∧ AtMostMaxLen s.payload.length ∧ DigitsBelow sw s.payload ∧
        AtMostMaxLen ((s.payload.length * sw + dw - 1) / dw)) →
    exec (.bitpack sw dw) s = .next (s.faultTaken
      (if sw < 1 ∨ 32 < sw ∨ dw < 1 ∨ 32 < dw then 2#8 else if ¬ AtMostMaxLen s.payload.length then 3#8
        else if ¬ DigitsBelow sw s.payload then 4#8 else 6#8)))

/-- SHUF of 30 digits below 64 answers 30 words with element i of the payload at position PERM[i], for whatever
bijection PERM is; nothing else changes; otherwise it takes the fault BAD_LENGTH or DIGIT_RANGE. (R141.) -/
def Obligations.ShufScattersByTable : Prop :=
  decode 0x20000000#32 = .ok .shuf ∧
  (∀ s : State, s.faultCode = 0#8 → s.payload.length = 30 → DigitsBelow 6 s.payload →
    ∃ result : List Word, exec .shuf s = .next (s.answered result) ∧ result.length = 30 ∧
      ∀ i : Fin 30, result[(Config.perm i).val]? = s.payload[i.val]?) ∧
  (∀ s : State, s.faultCode = 0#8 → ¬ (s.payload.length = 30 ∧ DigitsBelow 6 s.payload) →
    exec .shuf s = .next (s.faultTaken (if s.payload.length ≠ 30 then 3#8 else 4#8)))

/-- UNSHUF of 30 digits below 64 answers 30 words with the payload's element at position PERM[i] as element i, for
whatever bijection PERM is; nothing else changes; otherwise it takes the fault BAD_LENGTH or DIGIT_RANGE. (R142.) -/
def Obligations.UnshufGathersByTable : Prop :=
  decode 0x21000000#32 = .ok .unshuf ∧
  (∀ s : State, s.faultCode = 0#8 → s.payload.length = 30 → DigitsBelow 6 s.payload →
    ∃ result : List Word, exec .unshuf s = .next (s.answered result) ∧ result.length = 30 ∧
      ∀ i : Fin 30, result[i.val]? = s.payload[(Config.perm i).val]?) ∧
  (∀ s : State, s.faultCode = 0#8 → ¬ (s.payload.length = 30 ∧ DigitsBelow 6 s.payload) →
    exec .unshuf s = .next (s.faultTaken (if s.payload.length ≠ 30 then 3#8 else 4#8)))

/-- GEN.SEED with a 16-bit seed and no payload makes the Generator valid with cursors 0 and 21 and an array that four
in-place ascending passes make of the placement for that seed; nothing else changes; with a payload it takes the
fault BAD_LENGTH. (R151.) -/
def Obligations.GenSeedPlacesAndPasses : Prop :=
  (∀ seed, seed < 65536 → decode (BitVec.ofNat 32 (0x30000000 + seed)) = .ok (.genSeed seed)) ∧
  (∀ (seed : Nat) (s : State), seed < 65536 → s.faultCode = 0#8 → s.payload = [] →
    ∃ v0 v1 v2 v3 v4 : Vector Nat 56,
      exec (.genSeed seed) s = .next (State.answered
        { s with gen := { valid := true, s := v4, i1 := 0, i2 := 21 } } []) ∧
      IsPlacement seed v0 ∧ IsPass v0 v1 ∧ IsPass v1 v2 ∧ IsPass v2 v3 ∧ IsPass v3 v4) ∧
  (∀ (seed : Nat) (s : State), s.faultCode = 0#8 → s.payload ≠ [] → exec (.genSeed seed) s = .next (s.faultTaken 3#8))

/-- On a valid Generator that satisfies its invariants GEN.NEXT advances both cursors, 55 going to 1, answers the
normalised difference of the entries at the new cursors, stores it at the first and changes nothing else; otherwise
it takes the fault NOT_READY or BAD_LENGTH. (R156.) -/
def Obligations.GenNextDrawsLaggedDifference : Prop :=
  decode 0x31000000#32 = .ok .genNext ∧
  (∀ s : State, s.faultCode = 0#8 → s.gen.valid = true → s.payload = [] → s.gen.Inv →
    ∀ i1 i2 : Nat, i1 = (if s.gen.i1 = 55 then 1 else s.gen.i1 + 1) → i2 = (if s.gen.i2 = 55 then 1 else s.gen.i2 + 1) →
    ∃ r : Nat, (r : Int) = normalized ((entryOf s.gen.s i1 : Int) - (entryOf s.gen.s i2 : Int)) ∧
      exec .genNext s = .next (State.answered
        { s with gen := { s.gen with s := withEntry s.gen.s i1 r, i1 := i1, i2 := i2 } } [toWord r])) ∧
  (∀ s : State, s.faultCode = 0#8 → ¬ (s.gen.valid = true ∧ s.payload = []) →
    exec .genNext s = .next (s.faultTaken (if s.gen.valid = false then 5#8 else 3#8)))

/-- CIPH.DEC of a byte sequence of at least two and at most MAXLEN bytes answers as many bytes: the two seed bytes as
they are, byte j minus draw j - 1 of a Generator seeded with the first two bytes modulo 256, the last byte masked to
its remain low bits; no unit changes; otherwise it takes the fault BAD_LENGTH or DIGIT_RANGE. (R171.) -/
def Obligations.CiphDecRemovesKeystream : Prop :=
  decode 0x40000000#32 = .ok .ciphDec ∧
  (∀ s : State, s.faultCode = 0#8 → 2 ≤ s.payload.length → AtMostMaxLen s.payload.length → DigitsBelow 8 s.payload →
    exec .ciphDec s = .next (s.answered
      ((List.range s.payload.length).map fun j => toWord (cipherByte (-1) (s.payload.map BitVec.toNat) j)))) ∧
  (∀ s : State, s.faultCode = 0#8 →
    ¬ (2 ≤ s.payload.length ∧ AtMostMaxLen s.payload.length ∧ DigitsBelow 8 s.payload) →
    exec .ciphDec s = .next (s.faultTaken
      (if s.payload.length < 2 ∨ ¬ AtMostMaxLen s.payload.length then 3#8 else 4#8)))

/-- CIPH.ENC of a byte sequence of at least two and at most MAXLEN bytes answers as many bytes: the two seed bytes as
they are, byte j plus draw j - 1 of a Generator seeded with the first two bytes modulo 256, the last byte masked to
its remain low bits; no unit changes; otherwise it takes the fault BAD_LENGTH or DIGIT_RANGE. (R172.) -/
def Obligations.CiphEncAppliesKeystream : Prop :=
  decode 0x41000000#32 = .ok .ciphEnc ∧
  (∀ s : State, s.faultCode = 0#8 → 2 ≤ s.payload.length → AtMostMaxLen s.payload.length → DigitsBelow 8 s.payload →
    exec .ciphEnc s = .next (s.answered
      ((List.range s.payload.length).map fun j => toWord (cipherByte 1 (s.payload.map BitVec.toNat) j)))) ∧
  (∀ s : State, s.faultCode = 0#8 →
    ¬ (2 ≤ s.payload.length ∧ AtMostMaxLen s.payload.length ∧ DigitsBelow 8 s.payload) →
    exec .ciphEnc s = .next (s.faultTaken
      (if s.payload.length < 2 ∨ ¬ AtMostMaxLen s.payload.length then 3#8 else 4#8)))

/-- CHK.INIT with no payload sets every register of the Checksum and answers with no result; with a payload it takes the
fault BAD_LENGTH. (R184.) -/
def Obligations.ChkInitStartsChecksum : Prop :=
  decode 0x50000000#32 = .ok .chkInit ∧
  (∀ s : State, s.faultCode = 0#8 → s.payload = [] →
    exec .chkInit s = .next (State.answered
      { s with chk := { valid := true, sum := 0, ph := .first, pend := 0 } } [])) ∧
  (∀ s : State, s.faultCode = 0#8 → s.payload ≠ [] → exec .chkInit s = .next (s.faultTaken 3#8))

/-- On a valid Checksum that satisfies its invariants CHK.UPD takes the first byte as the sum, holds a low byte, or adds
a completed pair, low byte first; it takes the fault OVERFLOW when the sum would reach 2^32, and NOT_READY or
BAD_LENGTH before that. (R185.) -/
def Obligations.ChkUpdTakesByte : Prop :=
  (∀ b, b < 256 → decode (BitVec.ofNat 32 (0x51000000 + b)) = .ok (.chkUpd b)) ∧
  (∀ (b : Nat) (s : State), b < 256 → s.faultCode = 0#8 → s.chk.valid = true → s.payload = [] → s.chk.Inv →
    (s.chk.afterByte b).sum < 2 ^ 32 →
    exec (.chkUpd b) s = .next (State.answered { s with chk := s.chk.afterByte b } [])) ∧
  (∀ (b : Nat) (s : State), b < 256 → s.faultCode = 0#8 → s.chk.Inv →
    ¬ (s.chk.valid = true ∧ s.payload = [] ∧ (s.chk.afterByte b).sum < 2 ^ 32) →
    exec (.chkUpd b) s = .next (s.faultTaken
      (if s.chk.valid = false then 5#8 else if s.payload ≠ [] then 3#8 else 6#8)))

/-- On a valid Checksum that has taken a byte CHK.FIN answers 255 minus the fold of the sum, with a held byte added
alone, and clears CHK.VALID; the other registers of the Checksum are then unspecified and nothing else changes;
otherwise it takes the fault NOT_READY or BAD_LENGTH and clears nothing. (45_checksum.md sections 1, 2 (R183, R186,
R189); 93_implementation_defined.md U2.) -/
def Obligations.ChkFinReturnsChecksum : Prop :=
  decode 0x52000000#32 = .ok .chkFin ∧
  (∀ s : State, s.faultCode = 0#8 → s.chk.valid = true → s.payload = [] → s.chk.ph ≠ .first →
    ∃ (c : Checksum) (k : Nat), c.valid = false ∧
      exec .chkFin s = .next (State.answered { s with chk := c, freeDraws := k }
        [toWord (255 - foldedSum (if s.chk.ph = .hi then s.chk.sum + s.chk.pend else s.chk.sum))])) ∧
  (∀ s : State, s.faultCode = 0#8 → ¬ (s.chk.valid = true ∧ s.payload = [] ∧ s.chk.ph ≠ .first) →
    exec .chkFin s = .next (s.faultTaken (if s.chk.valid = false then 5#8 else 3#8)))

/-- CHKSUM of 1 to MAXLEN bytes answers 255 minus the fold of: byte 0, the little-endian pairs from byte 1 on, and for
an even length the last byte alone; no unit changes; otherwise it takes the fault BAD_LENGTH or DIGIT_RANGE.
(45_checksum.md sections 1, 3 (R180 to R183, R188, R189).) -/
def Obligations.ChksumIsFoldedComplementedSum : Prop :=
  decode 0x53000000#32 = .ok .chksum ∧
  (∀ s : State, s.faultCode = 0#8 → 1 ≤ s.payload.length → AtMostMaxLen s.payload.length → DigitsBelow 8 s.payload →
    exec .chksum s = .next (s.answered [toWord (255 - foldedSum (indexedSum (s.payload.map BitVec.toNat)))])) ∧
  (∀ s : State, s.faultCode = 0#8 →
    ¬ (1 ≤ s.payload.length ∧ AtMostMaxLen s.payload.length ∧ DigitsBelow 8 s.payload) →
    exec .chksum s = .next (s.faultTaken
      (if s.payload.length < 1 ∨ ¬ AtMostMaxLen s.payload.length then 3#8 else 4#8)))

/-- CRC.INIT with no payload makes the unit valid with CRC.R all ones and answers with no result; with a payload it
takes the fault BAD_LENGTH. (R197.) -/
def Obligations.CrcInitStartsCrc : Prop :=
  decode 0x60000000#32 = .ok .crcInit ∧
  (∀ s : State, s.faultCode = 0#8 → s.payload = [] →
    exec .crcInit s = .next (State.answered { s with crc := { valid := true, r := 0xFFFFFFFF#32 } } [])) ∧
  (∀ s : State, s.faultCode = 0#8 → s.payload ≠ [] → exec .crcInit s = .next (s.faultTaken 3#8))

/-- On a valid CRC unit CRC.UPD replaces CRC.R by the table entry at (CRC.R & 0xFF) XOR byte, XOR CRC.R shifted right by
8, and changes nothing else; otherwise it takes the fault NOT_READY or BAD_LENGTH. (R198.) -/
def Obligations.CrcUpdTakesByte : Prop :=
  (∀ b, b < 256 → decode (BitVec.ofNat 32 (0x61000000 + b)) = .ok (.crcUpd b)) ∧
  (∀ (b : Nat) (s : State), b < 256 → s.faultCode = 0#8 → s.crc.valid = true → s.payload = [] →
    exec (.crcUpd b) s = .next (State.answered
      { s with crc := { valid := true, r := crcTab ((s.crc.r.toNat % 256) ^^^ b) ^^^ (s.crc.r >>> 8) } } [])) ∧
  (∀ (b : Nat) (s : State), s.faultCode = 0#8 → ¬ (s.crc.valid = true ∧ s.payload = []) →
    exec (.crcUpd b) s = .next (s.faultTaken (if s.crc.valid = false then 5#8 else 3#8)))

/-- On a valid CRC unit CRC.FIN answers CRC.R XOR all ones and clears CRC.VALID; CRC.R is then unspecified and nothing
else changes; otherwise it takes the fault NOT_READY or BAD_LENGTH and clears nothing. (R199.) -/
def Obligations.CrcFinReturnsCrc : Prop :=
  decode 0x62000000#32 = .ok .crcFin ∧
  (∀ s : State, s.faultCode = 0#8 → s.crc.valid = true → s.payload = [] →
    ∃ (c : Crc) (k : Nat), c.valid = false ∧
      exec .crcFin s = .next (State.answered { s with crc := c, freeDraws := k } [s.crc.r ^^^ 0xFFFFFFFF#32])) ∧
  (∀ s : State, s.faultCode = 0#8 → ¬ (s.crc.valid = true ∧ s.payload = []) →
    exec .crcFin s = .next (s.faultTaken (if s.crc.valid = false then 5#8 else 3#8)))

/-- CRC32 of at most MAXLEN bytes answers the CRC of the bitwise reflected form with polynomial 0xEDB88320 (the model's
PRESUMED polynomial, log entry 5), started from all ones and complemented at the end; no unit changes; otherwise it
takes the fault BAD_LENGTH or DIGIT_RANGE. (46_crc32.md sections 1, 3 (R196, R200, R202).) -/
def Obligations.Crc32IsReflectedCrc : Prop :=
  decode 0x63000000#32 = .ok .crc32 ∧
  (∀ s : State, s.faultCode = 0#8 → AtMostMaxLen s.payload.length → DigitsBelow 8 s.payload →
    exec .crc32 s = .next (s.answered
      [(((s.payload.map BitVec.toNat).foldl crcBitwiseStep 0xFFFFFFFF#32) ^^^ 0xFFFFFFFF#32)])) ∧
  (∀ s : State, s.faultCode = 0#8 → ¬ (AtMostMaxLen s.payload.length ∧ DigitsBelow 8 s.payload) →
    exec .crc32 s = .next (s.faultTaken (if ¬ AtMostMaxLen s.payload.length then 3#8 else 4#8)))

/-- REVIVE of at most MAXLEN bytes answers the CRC of the bitwise reflected form with polynomial 0xEDB88320 (the model's
PRESUMED polynomial, log entry 5), started from all ones and complemented at the end, masked to its low 30 bits; no
unit changes; otherwise it takes the fault BAD_LENGTH or DIGIT_RANGE. (46_crc32.md sections 1, 3 (R196, R201,
R202).) -/
def Obligations.ReviveIsLowThirtyBits : Prop :=
  decode 0x64000000#32 = .ok .revive ∧
  (∀ s : State, s.faultCode = 0#8 → AtMostMaxLen s.payload.length → DigitsBelow 8 s.payload →
    exec .revive s = .next (s.answered
      [(((s.payload.map BitVec.toNat).foldl crcBitwiseStep 0xFFFFFFFF#32) ^^^ 0xFFFFFFFF#32) &&& 0x3FFFFFFF#32])) ∧
  (∀ s : State, s.faultCode = 0#8 → ¬ (AtMostMaxLen s.payload.length ∧ DigitsBelow 8 s.payload) →
    exec .revive s = .next (s.faultTaken (if ¬ AtMostMaxLen s.payload.length then 3#8 else 4#8)))

/-- The word 0 with a payload takes the fault BAD_LENGTH when no fault is recorded; while one is recorded it is answered
BAD_LENGTH and nothing else changes: the check that R261 leaves to fail, without a second record. The model's
reading, DEDUCED in log entry 6. (60_exceptions.md sections 1, 2 (R260 to R263).) -/
def Obligations.StatWithPayloadIsRefused : Prop :=
  (∀ s : State, s.faultCode = 0#8 → s.payload ≠ [] → exec .stat s = .next (s.faultTaken 3#8)) ∧
  (∀ s : State, s.faultCode ≠ 0#8 → s.payload ≠ [] → exec .stat s = .next (s.turnedAway 3#8))

/-- After RD.LOAD and any reads of in all Q bits, RD.READ n answers the number whose bit j is bit Q + j of the source
bit string, zero beyond its end, and no fault is recorded. (41_bitstream.md section 1 (R111, R113).) -/
def Obligations.ReadsCutTheSourceBitString : Prop :=
  ∀ (s : State) (sw : Nat) (digits : List Word) (ns : List Nat) (n : Nat),
    s.faultCode = 0#8 → 1 ≤ sw → sw ≤ 32 → AtMostMaxLen digits.length → DigitsBelow sw digits →
    (∀ m ∈ ns, m ≤ 32) → n ≤ 32 →
    ∃ t, s.runMoves (issue (.rdLoad sw) digits :: (ns ++ [n]).map fun m => issue (.rdRead m) []) = .next t ∧
      t.faultCode = 0#8 ∧
      t.lastResponse = some
        { status := 0#8
          result := [toWord (numberOf n fun j => bitAt sw (digits.map BitVec.toNat) (ns.sum + j))] }

/-- After RD.LOAD of L digits of width sw and reads of in all Q bits, RD.REM answers 1 exactly when Q is below L * sw.
(41_bitstream.md section 1 (R115).) -/
def Obligations.RemainingComparesBitCounts : Prop :=
  ∀ (s : State) (sw : Nat) (digits : List Word) (ns : List Nat),
    s.faultCode = 0#8 → 1 ≤ sw → sw ≤ 32 → AtMostMaxLen digits.length → DigitsBelow sw digits → (∀ m ∈ ns, m ≤ 32) →
    ∃ t, s.runMoves (issue (.rdLoad sw) digits :: ns.map (fun m => issue (.rdRead m) []) ++ [issue .rdRem []]) = .next t ∧
      t.faultCode = 0#8 ∧
      t.lastResponse = some
        { status := 0#8, result := [if ns.sum < digits.length * sw then 1#32 else 0#32] }

/-- WR.INIT, any writes and WR.FIN, with room for the digits, answer ceil(N / dw) digits, N the number of bits written;
digit k is bits k * dw up of the integer that holds each written value's low bits in turn, zero-padded at the end.
(41_bitstream.md section 2 (R119).) -/
def Obligations.WriterCutsTheWrittenBits : Prop :=
  ∀ (s : State) (dw : Nat) (ws : List (Nat × Nat)),
    s.faultCode = 0#8 → 1 ≤ dw → dw ≤ 32 → (∀ x ∈ ws, x.1 ≤ 32 ∧ x.2 < 2 ^ 32) →
    AtMostMaxLen ((writtenBits ws + dw - 1) / dw) →
    ∃ t, s.runMoves (issue (.wrInit dw) [] :: ws.map (fun x => issue (.wrWrite x.1) [toWord x.2]) ++ [issue .wrFin []])
        = .next t ∧
      t.faultCode = 0#8 ∧ t.wr.valid = false ∧
      t.lastResponse = some
        { status := 0#8
          result := (List.range ((writtenBits ws + dw - 1) / dw)).map fun k =>
            toWord (cutDigit dw (writtenNumber ws) k) }

/-- RD.LOAD of the digits that a Writer cut from a list of writes, then RD.READ with each write's count in turn, answers
each value's low bits in turn. (41_bitstream.md section 2 (R119).) -/
def Obligations.ReaderReturnsWrittenValues : Prop :=
  ∀ (s : State) (dw : Nat) (ws : List (Nat × Nat)),
    s.faultCode = 0#8 → 1 ≤ dw → dw ≤ 32 → (∀ x ∈ ws, x.1 ≤ 32 ∧ x.2 < 2 ^ 32) →
    AtMostMaxLen ((writtenBits ws + dw - 1) / dw) →
    ∃ t, s.runMoves
        (issue (.rdLoad dw) ((List.range ((writtenBits ws + dw - 1) / dw)).map fun k =>
            toWord (cutDigit dw (writtenNumber ws) k)) :: ws.map fun x => issue (.rdRead x.1) []) = .next t ∧
      t.faultCode = 0#8 ∧
      t.outbox = s.outbox ++ { status := 0#8, result := [] } ::
        ws.map fun x => { status := 0#8, result := [toWord (x.2 % 2 ^ x.1)] }

/-- BITPACK sw, dw of digits and then BITPACK dw, sw of its result, with room for both results, answers the digits
followed by zeros only, in all ceil(ceil(T / dw) * dw / sw) of them with T = L * sw. (41_bitstream.md section 3
(R124).) -/
def Obligations.BitpackRoundTripAppendsZeros : Prop :=
  ∀ (s : State) (sw dw : Nat),
    s.faultCode = 0#8 → 1 ≤ sw → sw ≤ 32 → 1 ≤ dw → dw ≤ 32 → AtMostMaxLen s.payload.length → DigitsBelow sw s.payload →
    AtMostMaxLen ((s.payload.length * sw + dw - 1) / dw) →
    AtMostMaxLen (((s.payload.length * sw + dw - 1) / dw * dw + sw - 1) / sw) →
    ∃ packed : List Word, exec (.bitpack sw dw) s = .next (s.answered packed) ∧
      ∀ u : State, u.faultCode = 0#8 → u.payload = packed →
        exec (.bitpack dw sw) u = .next (u.answered (s.payload ++ List.replicate
          (((s.payload.length * sw + dw - 1) / dw * dw + sw - 1) / sw - s.payload.length) 0#32))

/-- For every sequence of 30 digits below 64, UNSHUF of what SHUF answers is the sequence, and SHUF of what UNSHUF
answers is the sequence, for whatever bijection PERM is. (42_permutation.md (R143).) -/
def Obligations.ShufAndUnshufAreInverse : Prop :=
  ∀ s : State, s.faultCode = 0#8 → s.payload.length = 30 → DigitsBelow 6 s.payload →
    (∃ y : List Word, exec .shuf s = .next (s.answered y) ∧
      ∀ u : State, u.faultCode = 0#8 → u.payload = y → exec .unshuf u = .next (u.answered s.payload)) ∧
    (∃ y : List Word, exec .unshuf s = .next (s.answered y) ∧
      ∀ u : State, u.faultCode = 0#8 → u.payload = y → exec .shuf u = .next (u.answered s.payload))

/-- After GEN.SEED and t draws, t at least 1, GEN.I1 is 1 + (t - 1) mod 55 and GEN.I2 is 1 + (t + 20) mod 55, and the
last response is the t-th output of the seeded Generator. (43_generator.md (R157).) -/
def Obligations.GeneratorCursorsWalkTheRing : Prop :=
  ∀ (s : State) (seed t : Nat), s.faultCode = 0#8 → seed < 65536 → 1 ≤ t →
    ∃ u, s.runMoves (issue (.genSeed seed) [] :: List.replicate t (issue .genNext [])) = .next u ∧
      u.gen.i1 = 1 + (t - 1) % 55 ∧ u.gen.i2 = 1 + (t + 20) % 55 ∧
      u.lastResponse = some { status := 0#8, result := [toWord ((Generator.seeded seed).output t)] }

/-- Output t of a seeded Generator is the normalised difference of: entries t and t + 21 for t up to 34; entry t and
output t - 34 for t from 35 to 55; outputs t - 55 and t - 34 from 56 on. (43_generator.md (R158).) -/
def Obligations.GeneratorOutputsFollowRecurrence : Prop :=
  ∀ (seed t : Nat), seed < 65536 → 1 ≤ t →
    ((Generator.seeded seed).output t : Int) = normalized
      ((if t ≤ 55 then (entryOf (Generator.seeded seed).s t : Int) else ((Generator.seeded seed).output (t - 55) : Int)) -
       (if t ≤ 34 then (entryOf (Generator.seeded seed).s (t + 21) : Int)
        else ((Generator.seeded seed).output (t - 34) : Int)))

/-- From reset, GEN.SEED with 123, 456 and 12 and then draws answer the fourteen numbers the document prints.
(43_generator.md (R160); 95_test_vectors.md V1 to V3.) -/
def Obligations.GeneratorReproducesDocumentVectors : Prop :=
  responsesOf (State.reset.runMoves (issue (.genSeed 123) [] :: List.replicate 6 (issue .genNext []))) =
    { status := 0#8, result := [] } ::
      [2114319875, 1949518561, 1596751841, 1742987178, 1586516133, 103755708].map
        (fun v => { status := 0#8, result := [toWord v] }) ∧
  responsesOf (State.reset.runMoves (issue (.genSeed 456) [] :: List.replicate 6 (issue .genNext []))) =
    { status := 0#8, result := [] } ::
      [2044805024, 1323311594, 1087799997, 1907260840, 179380355, 120870348].map
        (fun v => { status := 0#8, result := [toWord v] }) ∧
  responsesOf (State.reset.runMoves (issue (.genSeed 12) [] :: List.replicate 2 (issue .genNext []))) =
    { status := 0#8, result := [] } ::
      [2137491492, 726598452].map (fun v => { status := 0#8, result := [toWord v] })

/-- For every byte sequence of at least three bytes whose last byte has no bit above its remain low bits, CIPH.DEC of
what CIPH.ENC answers is the sequence, and the other way round. (44_cipher.md (R175).) -/
def Obligations.CipherDirectionsAreInverse : Prop :=
  ∀ s : State, s.faultCode = 0#8 → 3 ≤ s.payload.length → AtMostMaxLen s.payload.length → DigitsBelow 8 s.payload →
    (s.payload.getLastD 0#32).toNat < 2 ^ (8 - s.payload.length * 8 % 6) →
    (∃ y : List Word, exec .ciphEnc s = .next (s.answered y) ∧
      ∀ u : State, u.faultCode = 0#8 → u.payload = y → exec .ciphDec u = .next (u.answered s.payload)) ∧
    (∃ y : List Word, exec .ciphDec s = .next (s.answered y) ∧
      ∀ u : State, u.faultCode = 0#8 → u.payload = y → exec .ciphEnc u = .next (u.answered s.payload))

/-- For every integer a the two folding loops end and give 0 for a = 0 and 1 + (a - 1) mod 255 for a above 0.
(45_checksum.md section 1 (R189).) -/
def Obligations.FoldHasClosedForm : Prop :=
  ∀ a : Nat, fold a = if a = 0 then 0 else 1 + (a - 1) % 255

/-- For every byte sequence of 1 to 65536 bytes that fits MAXLEN, the streaming operations give, from any state with no
fault recorded, the same last response as CHKSUM of the sequence. (45_checksum.md section 2 (R187).) -/
def Obligations.StreamingChecksumEqualsWhole : Prop :=
  ∀ (s : State) (code : List Nat), s.faultCode = 0#8 → 1 ≤ code.length → code.length ≤ 65536 → (∀ b ∈ code, b < 256) →
    AtMostMaxLen code.length →
    ∃ (t u : State) (v : Word),
      s.runMoves (issue .chkInit [] :: code.map (fun b => issue (.chkUpd b) []) ++ [issue .chkFin []]) = .next t ∧
      s.runMoves [issue .chksum (code.map toWord)] = .next u ∧
      t.lastResponse = some { status := 0#8, result := [v] } ∧ u.lastResponse = some { status := 0#8, result := [v] }

/-- For every byte sequence that fits MAXLEN, the empty one included, the streaming operations give, from any state with
no fault recorded, the same last response as CRC32 of the sequence, and REVIVE gives its low 30 bits. (46_crc32.md
section 2 (R203).) -/
def Obligations.StreamingCrcEqualsWhole : Prop :=
  ∀ (s : State) (bytes : List Nat), s.faultCode = 0#8 → (∀ b ∈ bytes, b < 256) → AtMostMaxLen bytes.length →
    ∃ (t u x : State) (v : Word),
      s.runMoves (issue .crcInit [] :: bytes.map (fun b => issue (.crcUpd b) []) ++ [issue .crcFin []]) = .next t ∧
      s.runMoves [issue .crc32 (bytes.map toWord)] = .next u ∧
      s.runMoves [issue .revive (bytes.map toWord)] = .next x ∧
      t.lastResponse = some { status := 0#8, result := [v] } ∧ u.lastResponse = some { status := 0#8, result := [v] } ∧
      x.lastResponse = some { status := 0#8, result := [v &&& 0x3FFFFFFF#32] }

/-- For every register value and every byte the table step is: XOR the byte in, then eight times shift right and XOR the
polynomial 0xEDB88320 (the model's PRESUMED polynomial, log entry 5) when the bit shifted out is 1. (46_crc32.md
section 1 (R202).) -/
def Obligations.CrcTableStepEqualsBitwiseStep : Prop :=
  ∀ (crc : Word) (b : Nat), b < 256 → crcStep crc b = crcBitwiseStep crc b

/-- For every whole-sequence operation, every state and every other contents of the five units, the operation completes
in both states with the same response and leaves each state's units as they were. (10_state.md section 10 (R36);
44_cipher.md (R178).) -/
def Obligations.WholeSequenceOperationsIgnoreUnits : Prop :=
  ∀ (i : Instr) (s : State) (rd : Reader) (wr : Writer) (gen : Generator) (chk : Checksum) (crc : Crc),
    Instr.wholeSequence i = true →
    ∃ t, exec i s = .next t ∧ t = t.withUnits s.rd s.wr s.gen s.chk s.crc ∧
      exec i (s.withUnits rd wr gen chk crc) = .next (t.withUnits rd wr gen chk crc)

/-- Every index 0 to 63 has a symbol whose text has that index; every recognised text is, in canonical case, the text of
its index; Xs is not recognised; the successor of the last symbol is the first. (48_host_pipeline.md section 1 (R220
to R224).) -/
def Obligations.AlphabetIndexAndTextAreInverse : Prop :=
  (∀ i : Symbol, indexOf (symbolAt i).1 (symbolAt i).2 = .ok i) ∧
  (∀ (a b : Char) (i : Symbol), indexOf a b = .ok i → symbolAt i = (a.toUpper, b.toLower)) ∧
  indexOf 'X' 's' = .error .invalidSymbol ∧
  (∀ i : Symbol, (successor i).val = (i.val + 1) % 64 ∧ predecessor (successor i) = i)

/-- For every text that parses, from any states with no fault recorded, PW.DECODE gives a Record, and PW.ENCODE of it
with the checksum kept gives the text in canonical case, for whatever bijection PERM is. That REVIVE accepts the
transliteration rests on its fitting MAXLEN (P2, R250; DEDUCED, log entry 4); the macros as runs of the block are
log entry 12. (48_host_pipeline.md sections 4 (R245 to R247, R249); 92_eei_decisions.md P2, P3.) -/
def Obligations.PasswordRoundTrip : Prop :=
  ∀ (text : List Char) (symbols : List Symbol) (s u : State),
    parseText text = .ok symbols → s.faultCode = 0#8 → u.faultCode = 0#8 →
    ∃ (r : Record) (s' u' : State), pwDecode text s = .ok (r, s') ∧ pwEncode r true u = .ok (showText symbols, u')

/-- From any state with no fault recorded: PW.DECODE of a text that parses gives a Record and leaves no fault recorded;
a text that does not parse ends with the parser's error, InvalidLength when it is not 60 characters and else
InvalidSymbol, before any operation is issued; PW.ENCODE of every Record, with either choice of the checksum, gives
a text of 60 characters and leaves no fault recorded. It rests on the transliteration fitting MAXLEN (DEDUCED, log
entry 4), on the cut of a team of more than twelve codes (the model's choice, log entry 13) and on log entry 12.
(48_host_pipeline.md section 5 (R250); 48_host_pipeline.md section 4 (R245, R246).) -/
def Obligations.PipelineMacrosNeverFaultTheBlock : Prop :=
  (∀ (text : List Char) (symbols : List Symbol) (s : State), parseText text = .ok symbols → s.faultCode = 0#8 →
    ∃ (r : Record) (t : State), pwDecode text s = .ok (r, t) ∧ t.faultCode = 0#8) ∧
  (∀ (text : List Char) (e : SoftwareError) (s : State), parseText text = .error e →
    pwDecode text s = .error e ∧ e = (if text.length ≠ 60 then .invalidLength else .invalidSymbol)) ∧
  (∀ (r : Record) (keep : Bool) (s : State), s.faultCode = 0#8 →
    ∃ (text : List Char) (t : State), pwEncode r keep s = .ok (text, t) ∧ text.length = 60 ∧ t.faultCode = 0#8)

/-- The flat form of every Record reads back as the Record; a flat form that reads as a Record has that Record's type
under the key type; with type 0 every rescue field and the revive value must be present, and with type 1 the revive
value must be and no rescue field may be. The refusals and the choice of keys are the model's (log entry 14).
(48_host_pipeline.md section 5 (R251); 48_host_pipeline.md section 3 (R240, R243).) -/
def Obligations.InterchangeFormKeepsTheRecord : Prop :=
  (∀ r : Record, Record.ofFlat r.toFlat = some r) ∧
  (∀ (f : FlatRecord) (r : Record), Record.ofFlat f = some r → numberAt f .type = some r.variant.typeBit) ∧
  (∀ (f : FlatRecord) (k : FlatKey), numberAt f .type = some 0 → k ∈ FlatKey.revive :: rescueKeys → f.lookup k = none →
    Record.ofFlat f = none) ∧
  (∀ f : FlatRecord, numberAt f .type = some 1 → f.lookup .revive = none → Record.ofFlat f = none) ∧
  (∀ (f : FlatRecord) (k : FlatKey) (v : FlatValue), numberAt f .type = some 1 → k ∈ rescueKeys → f.lookup k = some v →
    Record.ofFlat f = none)
end

