-- ==== Sys2Proof/Laws/State.lean ====
section
/-!
SUPPORT. One lemma for each field of the state under each named update, so that no later proof unfolds a record update.
-/

namespace Sys2Proof
namespace Machine

variable (s : State)

/-! ### State.setRd -/

@[simp] theorem State.setRd_rd (u : Reader) : (s.setRd u).rd = u := rfl
@[simp] theorem State.setRd_wr (u : Reader) : (s.setRd u).wr = s.wr := rfl
@[simp] theorem State.setRd_gen (u : Reader) : (s.setRd u).gen = s.gen := rfl
@[simp] theorem State.setRd_chk (u : Reader) : (s.setRd u).chk = s.chk := rfl
@[simp] theorem State.setRd_crc (u : Reader) : (s.setRd u).crc = s.crc := rfl
@[simp] theorem State.setRd_faultCode (u : Reader) : (s.setRd u).faultCode = s.faultCode := rfl
@[simp] theorem State.setRd_fcmd (u : Reader) : (s.setRd u).fcmd = s.fcmd := rfl
@[simp] theorem State.setRd_cmd (u : Reader) : (s.setRd u).cmd = s.cmd := rfl
@[simp] theorem State.setRd_payload (u : Reader) : (s.setRd u).payload = s.payload := rfl
@[simp] theorem State.setRd_inbox (u : Reader) : (s.setRd u).inbox = s.inbox := rfl
@[simp] theorem State.setRd_outbox (u : Reader) : (s.setRd u).outbox = s.outbox := rfl
@[simp] theorem State.setRd_freeDraws (u : Reader) : (s.setRd u).freeDraws = s.freeDraws := rfl

/-! ### State.setWr -/

@[simp] theorem State.setWr_rd (u : Writer) : (s.setWr u).rd = s.rd := rfl
@[simp] theorem State.setWr_wr (u : Writer) : (s.setWr u).wr = u := rfl
@[simp] theorem State.setWr_gen (u : Writer) : (s.setWr u).gen = s.gen := rfl
@[simp] theorem State.setWr_chk (u : Writer) : (s.setWr u).chk = s.chk := rfl
@[simp] theorem State.setWr_crc (u : Writer) : (s.setWr u).crc = s.crc := rfl
@[simp] theorem State.setWr_faultCode (u : Writer) : (s.setWr u).faultCode = s.faultCode := rfl
@[simp] theorem State.setWr_fcmd (u : Writer) : (s.setWr u).fcmd = s.fcmd := rfl
@[simp] theorem State.setWr_cmd (u : Writer) : (s.setWr u).cmd = s.cmd := rfl
@[simp] theorem State.setWr_payload (u : Writer) : (s.setWr u).payload = s.payload := rfl
@[simp] theorem State.setWr_inbox (u : Writer) : (s.setWr u).inbox = s.inbox := rfl
@[simp] theorem State.setWr_outbox (u : Writer) : (s.setWr u).outbox = s.outbox := rfl
@[simp] theorem State.setWr_freeDraws (u : Writer) : (s.setWr u).freeDraws = s.freeDraws := rfl

/-! ### State.setGen -/

@[simp] theorem State.setGen_rd (u : Generator) : (s.setGen u).rd = s.rd := rfl
@[simp] theorem State.setGen_wr (u : Generator) : (s.setGen u).wr = s.wr := rfl
@[simp] theorem State.setGen_gen (u : Generator) : (s.setGen u).gen = u := rfl
@[simp] theorem State.setGen_chk (u : Generator) : (s.setGen u).chk = s.chk := rfl
@[simp] theorem State.setGen_crc (u : Generator) : (s.setGen u).crc = s.crc := rfl
@[simp] theorem State.setGen_faultCode (u : Generator) : (s.setGen u).faultCode = s.faultCode := rfl
@[simp] theorem State.setGen_fcmd (u : Generator) : (s.setGen u).fcmd = s.fcmd := rfl
@[simp] theorem State.setGen_cmd (u : Generator) : (s.setGen u).cmd = s.cmd := rfl
@[simp] theorem State.setGen_payload (u : Generator) : (s.setGen u).payload = s.payload := rfl
@[simp] theorem State.setGen_inbox (u : Generator) : (s.setGen u).inbox = s.inbox := rfl
@[simp] theorem State.setGen_outbox (u : Generator) : (s.setGen u).outbox = s.outbox := rfl
@[simp] theorem State.setGen_freeDraws (u : Generator) : (s.setGen u).freeDraws = s.freeDraws := rfl

/-! ### State.setChk -/

@[simp] theorem State.setChk_rd (u : Checksum) : (s.setChk u).rd = s.rd := rfl
@[simp] theorem State.setChk_wr (u : Checksum) : (s.setChk u).wr = s.wr := rfl
@[simp] theorem State.setChk_gen (u : Checksum) : (s.setChk u).gen = s.gen := rfl
@[simp] theorem State.setChk_chk (u : Checksum) : (s.setChk u).chk = u := rfl
@[simp] theorem State.setChk_crc (u : Checksum) : (s.setChk u).crc = s.crc := rfl
@[simp] theorem State.setChk_faultCode (u : Checksum) : (s.setChk u).faultCode = s.faultCode := rfl
@[simp] theorem State.setChk_fcmd (u : Checksum) : (s.setChk u).fcmd = s.fcmd := rfl
@[simp] theorem State.setChk_cmd (u : Checksum) : (s.setChk u).cmd = s.cmd := rfl
@[simp] theorem State.setChk_payload (u : Checksum) : (s.setChk u).payload = s.payload := rfl
@[simp] theorem State.setChk_inbox (u : Checksum) : (s.setChk u).inbox = s.inbox := rfl
@[simp] theorem State.setChk_outbox (u : Checksum) : (s.setChk u).outbox = s.outbox := rfl
@[simp] theorem State.setChk_freeDraws (u : Checksum) : (s.setChk u).freeDraws = s.freeDraws := rfl

/-! ### State.setCrc -/

@[simp] theorem State.setCrc_rd (u : Crc) : (s.setCrc u).rd = s.rd := rfl
@[simp] theorem State.setCrc_wr (u : Crc) : (s.setCrc u).wr = s.wr := rfl
@[simp] theorem State.setCrc_gen (u : Crc) : (s.setCrc u).gen = s.gen := rfl
@[simp] theorem State.setCrc_chk (u : Crc) : (s.setCrc u).chk = s.chk := rfl
@[simp] theorem State.setCrc_crc (u : Crc) : (s.setCrc u).crc = u := rfl
@[simp] theorem State.setCrc_faultCode (u : Crc) : (s.setCrc u).faultCode = s.faultCode := rfl
@[simp] theorem State.setCrc_fcmd (u : Crc) : (s.setCrc u).fcmd = s.fcmd := rfl
@[simp] theorem State.setCrc_cmd (u : Crc) : (s.setCrc u).cmd = s.cmd := rfl
@[simp] theorem State.setCrc_payload (u : Crc) : (s.setCrc u).payload = s.payload := rfl
@[simp] theorem State.setCrc_inbox (u : Crc) : (s.setCrc u).inbox = s.inbox := rfl
@[simp] theorem State.setCrc_outbox (u : Crc) : (s.setCrc u).outbox = s.outbox := rfl
@[simp] theorem State.setCrc_freeDraws (u : Crc) : (s.setCrc u).freeDraws = s.freeDraws := rfl

/-! ### State.closeWr -/

@[simp] theorem State.closeWr_rd : (s.closeWr).rd = s.rd := rfl
@[simp] theorem State.closeWr_wr : (s.closeWr).wr = Writer.unspecified s.freeDraws := rfl
@[simp] theorem State.closeWr_gen : (s.closeWr).gen = s.gen := rfl
@[simp] theorem State.closeWr_chk : (s.closeWr).chk = s.chk := rfl
@[simp] theorem State.closeWr_crc : (s.closeWr).crc = s.crc := rfl
@[simp] theorem State.closeWr_faultCode : (s.closeWr).faultCode = s.faultCode := rfl
@[simp] theorem State.closeWr_fcmd : (s.closeWr).fcmd = s.fcmd := rfl
@[simp] theorem State.closeWr_cmd : (s.closeWr).cmd = s.cmd := rfl
@[simp] theorem State.closeWr_payload : (s.closeWr).payload = s.payload := rfl
@[simp] theorem State.closeWr_inbox : (s.closeWr).inbox = s.inbox := rfl
@[simp] theorem State.closeWr_outbox : (s.closeWr).outbox = s.outbox := rfl
@[simp] theorem State.closeWr_freeDraws : (s.closeWr).freeDraws = s.freeDraws + 1 := rfl

/-! ### State.closeChk -/

@[simp] theorem State.closeChk_rd : (s.closeChk).rd = s.rd := rfl
@[simp] theorem State.closeChk_wr : (s.closeChk).wr = s.wr := rfl
@[simp] theorem State.closeChk_gen : (s.closeChk).gen = s.gen := rfl
@[simp] theorem State.closeChk_chk : (s.closeChk).chk = Checksum.unspecified s.freeDraws := rfl
@[simp] theorem State.closeChk_crc : (s.closeChk).crc = s.crc := rfl
@[simp] theorem State.closeChk_faultCode : (s.closeChk).faultCode = s.faultCode := rfl
@[simp] theorem State.closeChk_fcmd : (s.closeChk).fcmd = s.fcmd := rfl
@[simp] theorem State.closeChk_cmd : (s.closeChk).cmd = s.cmd := rfl
@[simp] theorem State.closeChk_payload : (s.closeChk).payload = s.payload := rfl
@[simp] theorem State.closeChk_inbox : (s.closeChk).inbox = s.inbox := rfl
@[simp] theorem State.closeChk_outbox : (s.closeChk).outbox = s.outbox := rfl
@[simp] theorem State.closeChk_freeDraws : (s.closeChk).freeDraws = s.freeDraws + 1 := rfl

/-! ### State.closeCrc -/

@[simp] theorem State.closeCrc_rd : (s.closeCrc).rd = s.rd := rfl
@[simp] theorem State.closeCrc_wr : (s.closeCrc).wr = s.wr := rfl
@[simp] theorem State.closeCrc_gen : (s.closeCrc).gen = s.gen := rfl
@[simp] theorem State.closeCrc_chk : (s.closeCrc).chk = s.chk := rfl
@[simp] theorem State.closeCrc_crc : (s.closeCrc).crc = Crc.unspecified s.freeDraws := rfl
@[simp] theorem State.closeCrc_faultCode : (s.closeCrc).faultCode = s.faultCode := rfl
@[simp] theorem State.closeCrc_fcmd : (s.closeCrc).fcmd = s.fcmd := rfl
@[simp] theorem State.closeCrc_cmd : (s.closeCrc).cmd = s.cmd := rfl
@[simp] theorem State.closeCrc_payload : (s.closeCrc).payload = s.payload := rfl
@[simp] theorem State.closeCrc_inbox : (s.closeCrc).inbox = s.inbox := rfl
@[simp] theorem State.closeCrc_outbox : (s.closeCrc).outbox = s.outbox := rfl
@[simp] theorem State.closeCrc_freeDraws : (s.closeCrc).freeDraws = s.freeDraws + 1 := rfl

/-! ### State.respond -/

@[simp] theorem State.respond_rd (st : Byte) (ws : List Word) : (s.respond st ws).rd = s.rd := rfl
@[simp] theorem State.respond_wr (st : Byte) (ws : List Word) : (s.respond st ws).wr = s.wr := rfl
@[simp] theorem State.respond_gen (st : Byte) (ws : List Word) : (s.respond st ws).gen = s.gen := rfl
@[simp] theorem State.respond_chk (st : Byte) (ws : List Word) : (s.respond st ws).chk = s.chk := rfl
@[simp] theorem State.respond_crc (st : Byte) (ws : List Word) : (s.respond st ws).crc = s.crc := rfl
@[simp] theorem State.respond_faultCode (st : Byte) (ws : List Word) : (s.respond st ws).faultCode = s.faultCode := rfl
@[simp] theorem State.respond_fcmd (st : Byte) (ws : List Word) : (s.respond st ws).fcmd = s.fcmd := rfl
@[simp] theorem State.respond_cmd (st : Byte) (ws : List Word) : (s.respond st ws).cmd = s.cmd := rfl
@[simp] theorem State.respond_payload (st : Byte) (ws : List Word) : (s.respond st ws).payload = s.payload := rfl
@[simp] theorem State.respond_inbox (st : Byte) (ws : List Word) : (s.respond st ws).inbox = s.inbox := rfl
@[simp] theorem State.respond_outbox (st : Byte) (ws : List Word) : (s.respond st ws).outbox = s.outbox ++ [{ status := st, result := ws }] := rfl
@[simp] theorem State.respond_freeDraws (st : Byte) (ws : List Word) : (s.respond st ws).freeDraws = s.freeDraws := rfl

/-! ### State.recordFault -/

@[simp] theorem State.recordFault_rd (c : FaultCode) : (s.recordFault c).rd = s.rd := rfl
@[simp] theorem State.recordFault_wr (c : FaultCode) : (s.recordFault c).wr = s.wr := rfl
@[simp] theorem State.recordFault_gen (c : FaultCode) : (s.recordFault c).gen = s.gen := rfl
@[simp] theorem State.recordFault_chk (c : FaultCode) : (s.recordFault c).chk = s.chk := rfl
@[simp] theorem State.recordFault_crc (c : FaultCode) : (s.recordFault c).crc = s.crc := rfl
@[simp] theorem State.recordFault_faultCode (c : FaultCode) : (s.recordFault c).faultCode = c.code := rfl
@[simp] theorem State.recordFault_fcmd (c : FaultCode) : (s.recordFault c).fcmd = s.cmd := rfl
@[simp] theorem State.recordFault_cmd (c : FaultCode) : (s.recordFault c).cmd = s.cmd := rfl
@[simp] theorem State.recordFault_payload (c : FaultCode) : (s.recordFault c).payload = s.payload := rfl
@[simp] theorem State.recordFault_inbox (c : FaultCode) : (s.recordFault c).inbox = s.inbox := rfl
@[simp] theorem State.recordFault_outbox (c : FaultCode) : (s.recordFault c).outbox = s.outbox := rfl
@[simp] theorem State.recordFault_freeDraws (c : FaultCode) : (s.recordFault c).freeDraws = s.freeDraws := rfl

/-! ### State.raise -/

@[simp] theorem State.raise_rd (c : FaultCode) : (s.raise c).rd = s.rd := rfl
@[simp] theorem State.raise_wr (c : FaultCode) : (s.raise c).wr = s.wr := rfl
@[simp] theorem State.raise_gen (c : FaultCode) : (s.raise c).gen = s.gen := rfl
@[simp] theorem State.raise_chk (c : FaultCode) : (s.raise c).chk = s.chk := rfl
@[simp] theorem State.raise_crc (c : FaultCode) : (s.raise c).crc = s.crc := rfl
@[simp] theorem State.raise_faultCode (c : FaultCode) : (s.raise c).faultCode = c.code := rfl
@[simp] theorem State.raise_fcmd (c : FaultCode) : (s.raise c).fcmd = s.cmd := rfl
@[simp] theorem State.raise_cmd (c : FaultCode) : (s.raise c).cmd = s.cmd := rfl
@[simp] theorem State.raise_payload (c : FaultCode) : (s.raise c).payload = s.payload := rfl
@[simp] theorem State.raise_inbox (c : FaultCode) : (s.raise c).inbox = s.inbox := rfl
@[simp] theorem State.raise_outbox (c : FaultCode) : (s.raise c).outbox = s.outbox ++ [{ status := c.code, result := [] }] := rfl
@[simp] theorem State.raise_freeDraws (c : FaultCode) : (s.raise c).freeDraws = s.freeDraws := rfl

/-! ### State.refuseFaulted -/

@[simp] theorem State.refuseFaulted_rd : (s.refuseFaulted).rd = s.rd := rfl
@[simp] theorem State.refuseFaulted_wr : (s.refuseFaulted).wr = s.wr := rfl
@[simp] theorem State.refuseFaulted_gen : (s.refuseFaulted).gen = s.gen := rfl
@[simp] theorem State.refuseFaulted_chk : (s.refuseFaulted).chk = s.chk := rfl
@[simp] theorem State.refuseFaulted_crc : (s.refuseFaulted).crc = s.crc := rfl
@[simp] theorem State.refuseFaulted_faultCode : (s.refuseFaulted).faultCode = s.faultCode := rfl
@[simp] theorem State.refuseFaulted_fcmd : (s.refuseFaulted).fcmd = s.fcmd := rfl
@[simp] theorem State.refuseFaulted_cmd : (s.refuseFaulted).cmd = s.cmd := rfl
@[simp] theorem State.refuseFaulted_payload : (s.refuseFaulted).payload = s.payload := rfl
@[simp] theorem State.refuseFaulted_inbox : (s.refuseFaulted).inbox = s.inbox := rfl
@[simp] theorem State.refuseFaulted_outbox : (s.refuseFaulted).outbox = s.outbox ++ [{ status := statusFaulted, result := [] }] := rfl
@[simp] theorem State.refuseFaulted_freeDraws : (s.refuseFaulted).freeDraws = s.freeDraws := rfl

/-! ### State.resetBlock -/

@[simp] theorem State.resetBlock_rd : (s.resetBlock).rd = Reader.unspecified s.freeDraws := rfl
@[simp] theorem State.resetBlock_wr : (s.resetBlock).wr = Writer.unspecified s.freeDraws := rfl
@[simp] theorem State.resetBlock_gen : (s.resetBlock).gen = Generator.unspecified s.freeDraws := rfl
@[simp] theorem State.resetBlock_chk : (s.resetBlock).chk = Checksum.unspecified s.freeDraws := rfl
@[simp] theorem State.resetBlock_crc : (s.resetBlock).crc = Crc.unspecified s.freeDraws := rfl
@[simp] theorem State.resetBlock_faultCode : (s.resetBlock).faultCode = 0#8 := rfl
@[simp] theorem State.resetBlock_fcmd : (s.resetBlock).fcmd = 0#32 := rfl
@[simp] theorem State.resetBlock_cmd : (s.resetBlock).cmd = s.cmd := rfl
@[simp] theorem State.resetBlock_payload : (s.resetBlock).payload = s.payload := rfl
@[simp] theorem State.resetBlock_inbox : (s.resetBlock).inbox = s.inbox := rfl
@[simp] theorem State.resetBlock_outbox : (s.resetBlock).outbox = s.outbox := rfl
@[simp] theorem State.resetBlock_freeDraws : (s.resetBlock).freeDraws = s.freeDraws + 1 := rfl

/-! ### State.submit -/

@[simp] theorem State.submit_rd (w : Word) (p : List Word) : (s.submit w p).rd = s.rd := rfl
@[simp] theorem State.submit_wr (w : Word) (p : List Word) : (s.submit w p).wr = s.wr := rfl
@[simp] theorem State.submit_gen (w : Word) (p : List Word) : (s.submit w p).gen = s.gen := rfl
@[simp] theorem State.submit_chk (w : Word) (p : List Word) : (s.submit w p).chk = s.chk := rfl
@[simp] theorem State.submit_crc (w : Word) (p : List Word) : (s.submit w p).crc = s.crc := rfl
@[simp] theorem State.submit_faultCode (w : Word) (p : List Word) : (s.submit w p).faultCode = s.faultCode := rfl
@[simp] theorem State.submit_fcmd (w : Word) (p : List Word) : (s.submit w p).fcmd = s.fcmd := rfl
@[simp] theorem State.submit_cmd (w : Word) (p : List Word) : (s.submit w p).cmd = s.cmd := rfl
@[simp] theorem State.submit_payload (w : Word) (p : List Word) : (s.submit w p).payload = s.payload := rfl
@[simp] theorem State.submit_inbox (w : Word) (p : List Word) : (s.submit w p).inbox = .transaction w p :: s.inbox := rfl
@[simp] theorem State.submit_outbox (w : Word) (p : List Word) : (s.submit w p).outbox = s.outbox := rfl
@[simp] theorem State.submit_freeDraws (w : Word) (p : List Word) : (s.submit w p).freeDraws = s.freeDraws := rfl

/-! ### The units after their registers became unspecified -/

@[simp] theorem Reader.unspecified_valid (k : Nat) : (Reader.unspecified k).valid = false := rfl
@[simp] theorem Writer.unspecified_valid (k : Nat) : (Writer.unspecified k).valid = false := rfl
@[simp] theorem Generator.unspecified_valid (k : Nat) : (Generator.unspecified k).valid = false := rfl
@[simp] theorem Checksum.unspecified_valid (k : Nat) : (Checksum.unspecified k).valid = false := rfl
@[simp] theorem Crc.unspecified_valid (k : Nat) : (Crc.unspecified k).valid = false := rfl

/-! ### The model's answers in the words of the statements -/

/-- A response `OK` is what the statements call an answer. -/
theorem State.respond_ok_eq_answered (ws : List Word) : s.respond statusOk ws = s.answered ws := rfl

/-- Fault entry writes the record and responds, and nothing else (R262). -/
theorem State.raise_eq_faultTaken (c : FaultCode) : s.raise c = s.faultTaken c.code := rfl

/-- The refusal of R263 only responds. -/
theorem State.refuseFaulted_eq_turnedAway : s.refuseFaulted = s.turnedAway 7#8 := rfl

end Machine
end Sys2Proof
end

