-- ==== Sys2Proof/Laws/Config.lean ====
section
/-!
SUPPORT. What is known of the open parameters `MAXLEN` and `translit` (spec/00_scope.md rule R7, spec/92_eei_decisions.md
P2, P3).
-/

namespace Sys2Proof

/-- `MAXLEN` is at least 256 where it is bounded. -/
theorem Config.le_maxLen {m : Nat} (h : Config.maxLen = some m) : 256 ≤ m := by
  simp only [Config.maxLen, Option.map_eq_some_iff] at h
  obtain ⟨k, -, rfl⟩ := h
  omega

/-- `exceedsMaxLen` is exactly `L > MAXLEN`. -/
theorem Config.exceedsMaxLen_iff (len : Nat) :
    Config.exceedsMaxLen len = true ↔ ∃ m, Config.maxLen = some m ∧ m < len := by
  unfold Config.exceedsMaxLen
  rcases h : Config.maxLen with _ | m
  · simp
  · have := Config.le_maxLen h
    simp only [Bool.and_eq_true, decide_eq_true_eq, Option.some.injEq, exists_eq_left']
    omega

/-- A sequence of at most 256 elements always fits. -/
theorem Config.exceedsMaxLen_of_le {len : Nat} (h : len ≤ 256) : Config.exceedsMaxLen len = false := by
  have : ¬ 256 < len := by omega
  simp [Config.exceedsMaxLen, this]

/-- A shorter sequence than one that fits also fits. -/
theorem Config.exceedsMaxLen_mono {a b : Nat} (hab : a ≤ b) (h : Config.exceedsMaxLen b = false) :
    Config.exceedsMaxLen a = false := by
  rw [Bool.eq_false_iff, ne_eq, Config.exceedsMaxLen_iff] at h ⊢
  rintro ⟨m, hm, hlt⟩
  exact h ⟨m, hm, by omega⟩

/-- The transliteration fits `MAXLEN` (P2, R250). -/
theorem Config.translit_fits (wire : List Nat) : Config.exceedsMaxLen (Config.translit wire).length = false := by
  rw [Bool.eq_false_iff, ne_eq, Config.exceedsMaxLen_iff]
  rintro ⟨m, hm, hlt⟩
  simp only [Config.translit, hm, List.length_take] at hlt
  omega

end Sys2Proof
end

