-- ==== Sys2Proof/Laws/Ops.lean ====
section
/-!
SUPPORT. What the shared operations of the transaction protocol can do, said once: the order of checks, the shape of an
operation, the host's moves and the step.
-/

namespace Sys2Proof
namespace Machine

/-! ### The order of checks (R261) -/

/-- No check fails exactly when every check passes. -/
theorem firstFailure_eq_none {cs : List Check} : firstFailure cs = none ↔ ∀ c ∈ cs, c.1 = false := by
  induction cs with
  | nil => simp [firstFailure]
  | cons c cs ih =>
    obtain ⟨b, code⟩ := c
    cases b <;> simp [firstFailure, ih]

/-- The failure reported is that of a check that fails, and every check before it passes. -/
theorem firstFailure_eq_some {cs : List Check} {code : FaultCode} :
    firstFailure cs = some code ↔
      ∃ before after, cs = before ++ (true, code) :: after ∧ ∀ c ∈ before, c.1 = false := by
  induction cs with
  | nil => simp [firstFailure]
  | cons c cs ih =>
    obtain ⟨b, k⟩ := c
    cases b with
    | true =>
      simp only [firstFailure, if_true, Option.some.injEq]
      constructor
      · rintro rfl
        exact ⟨[], cs, rfl, by simp⟩
      · rintro ⟨before, after, h, hb⟩
        cases before with
        | nil => exact (by simpa using h : k = code ∧ cs = after).1
        | cons c' cs' =>
          simp only [List.cons_append, List.cons.injEq] at h
          have := hb c' (by simp)
          rw [← h.1] at this
          simp at this
    | false =>
      simp only [firstFailure, Bool.false_eq_true, if_false, ih]
      constructor
      · rintro ⟨before, after, rfl, hb⟩
        exact ⟨(false, k) :: before, after, rfl, by simpa using hb⟩
      · rintro ⟨before, after, h, hb⟩
        cases before with
        | nil => simp at h
        | cons c' cs' =>
          simp only [List.cons_append, List.cons.injEq] at h
          exact ⟨cs', after, h.2, fun c hc => hb c (by simp [hc])⟩

/-! ### The shape of an operation -/

theorem State.faulted_iff (s : State) : s.faulted = true ↔ s.faultCode ≠ 0#8 := by
  simp [State.faulted]

/-- While a fault is recorded an operation is turned away with `FAULTED` (R263). -/
theorem operate_of_faulted {s : State} (h : s.faultCode ≠ 0#8) (cs : List Check) (d : State) (ws : List Word) :
    operate s cs d ws = .next (s.turnedAway 7#8) := by
  simp [operate, State.faulted, h, State.refuseFaulted_eq_turnedAway]

/-- The first failing check is raised (R261, R262). -/
theorem operate_of_failure {s : State} (h : s.faultCode = 0#8) {cs : List Check} {c : FaultCode}
    (hc : firstFailure cs = some c) (d : State) (ws : List Word) :
    operate s cs d ws = .next (s.faultTaken c.code) := by
  simp [operate, State.faulted, h, hc, State.raise_eq_faultTaken]

/-- An operation whose checks all pass is performed and answered. -/
theorem operate_of_success {s : State} (h : s.faultCode = 0#8) {cs : List Check} (hc : firstFailure cs = none)
    (d : State) (ws : List Word) : operate s cs d ws = .next (d.answered ws) := by
  simp [operate, State.faulted, h, hc, State.respond_ok_eq_answered]

/-- Everything an operation can do. -/
theorem operate_cases (s : State) (cs : List Check) (d : State) (ws : List Word) :
    (s.faultCode ≠ 0#8 ∧ operate s cs d ws = .next (s.turnedAway 7#8)) ∨
    (s.faultCode = 0#8 ∧ ∃ c, firstFailure cs = some c ∧ operate s cs d ws = .next (s.faultTaken c.code)) ∨
    (s.faultCode = 0#8 ∧ firstFailure cs = none ∧ operate s cs d ws = .next (d.answered ws)) := by
  by_cases h : s.faultCode = 0#8
  · rcases hc : firstFailure cs with _ | c
    · exact .inr (.inr ⟨h, rfl, operate_of_success h hc d ws⟩)
    · exact .inr (.inl ⟨h, c, rfl, operate_of_failure h hc d ws⟩)
  · exact .inl ⟨h, operate_of_faulted h cs d ws⟩

/-- The codes that are recorded are 1 to 6 (R260). -/
theorem FaultCode.code_range (c : FaultCode) : 1 ≤ c.code.toNat ∧ c.code.toNat ≤ 6 := by
  cases c <;> decide

/-- Different causes have different codes (R260). -/
theorem FaultCode.code_injective : Function.Injective FaultCode.code := by
  intro a b h
  cases a <;> cases b <;> first | rfl | (exact absurd h (by decide))

/-! ### The host's moves and the step -/

theorem step_of_idle {s : State} (h : s.inbox = []) : step s = .next s := by
  simp [step, State.nextMove, h]

theorem step_of_reset {s : State} {rest : List HostMove} (h : s.inbox = .reset :: rest) :
    step s = .next (State.resetBlock { s with inbox := rest }) := by
  simp [step, State.nextMove, h]

/-- A transaction whose command word is legal is the operation on the latched transaction. -/
theorem step_of_legal {s : State} {w : Word} {p : List Word} {rest : List HostMove} {i : Instr}
    (h : s.inbox = .transaction w p :: rest) (hd : decode w = .ok i) :
    step s = exec i { s with inbox := rest, cmd := w, payload := p } := by
  simp [step, State.nextMove, h, hd]

/-- A transaction whose command word is illegal. -/
theorem step_of_illegal {s : State} {w : Word} {p : List Word} {rest : List HostMove} {e : DecodeError}
    (h : s.inbox = .transaction w p :: rest) (hd : decode w = .error e) :
    step s = illegalCommand { s with inbox := rest, cmd := w, payload := p } := by
  simp [step, State.nextMove, h, hd]

end Machine
end Sys2Proof
end

