-- ==== Sys2Proof/Laws/Units.lean ====
section
/-!
SUPPORT. What the operations over the units' registers do, said once: the Reader's and the Writer's loops in closed
form, the Generator's array, the Checksum's phases.
-/

namespace Sys2Proof
namespace Machine

/-! ### Checks on operands -/

theorem digitOver_eq_false {w : Nat} {ds : List Word} : digitOver w ds = false ↔ DigitsBelow w ds := by
  simp [digitOver, DigitsBelow, List.any_eq_false]

theorem widthBad_eq_false {w : Nat} : widthBad w = false ↔ 1 ≤ w ∧ w ≤ 32 := by
  simp only [widthBad, Bool.or_eq_false_iff, decide_eq_false_iff_not]
  simp only [Config.wmax]
  omega

theorem countBad_eq_false {n : Nat} : countBad n = false ↔ n ≤ 32 := by
  simp only [countBad, decide_eq_false_iff_not]
  simp only [Config.wmax]
  omega

theorem State.payloadGiven_eq_false {s : State} : s.payloadGiven = false ↔ s.payload = [] := by
  simp [State.payloadGiven, State.payloadLen]

/-! ### The Reader -/

theorem Reader.refill_frame (n fuel : Nat) (r : Reader) :
    (Reader.refill n fuel r).valid = r.valid ∧ (Reader.refill n fuel r).sw = r.sw ∧
    (Reader.refill n fuel r).src = r.src ∧ (Reader.refill n fuel r).len = r.len := by
  induction fuel generalizing r with
  | zero => simp [Reader.refill]
  | succ fuel ih =>
    unfold Reader.refill
    split
    · simpa using ih _
    · simp

/-- `RD.READ` writes `RD.POS`, `RD.ACC` and `RD.CNT` only. -/
theorem Reader.read_frame (r : Reader) (n : Nat) :
    (r.read n).1.valid = r.valid ∧ (r.read n).1.sw = r.sw ∧ (r.read n).1.src = r.src ∧ (r.read n).1.len = r.len :=
  Reader.refill_frame n (r.len - r.pos) r

/-- Placing bits above bits already held is an addition (R253). -/
theorem or_shift_eq_add {a b k : Nat} (h : a < 2 ^ k) : a ||| (b <<< k) = a + 2 ^ k * b := by
  rw [Nat.lor_comm, ← Nat.shiftLeft_add_eq_or_of_lt h, Nat.shiftLeft_eq]
  ring

theorem Reader.digitsTaken_succ {r : Reader} {n : Nat} (hsw : 1 ≤ r.sw) (hc : r.cnt < n) (hp : r.pos < r.len) :
    r.digitsTaken n =
      ({ r with acc := r.acc ||| ((r.src.getD r.pos 0#32).toNat <<< r.cnt), cnt := r.cnt + r.sw, pos := r.pos + 1 } :
        Reader).digitsTaken n + 1 := by
  have h1 : ¬ n ≤ r.cnt := by omega
  simp only [Reader.digitsTaken, h1, if_false, ceilDiv]
  by_cases h2 : n ≤ r.cnt + r.sw
  · have : (n - r.cnt + r.sw - 1) / r.sw = 1 := by
      rw [Nat.div_eq_iff (by omega)]
      omega
    simp only [h2, if_true, this]
    omega
  · have h3 : n - r.cnt + r.sw - 1 = (n - (r.cnt + r.sw) + r.sw - 1) + r.sw := by omega
    simp only [h2, if_false]
    rw [h3, Nat.add_div_right _ (by omega)]
    omega

/-- The loop of R112 in closed form. -/
theorem Reader.refill_eq (n : Nat) (r : Reader) (hsw : 1 ≤ r.sw) (hlen : r.len = r.src.length)
    (hpos : r.pos ≤ r.len) (hd : DigitsBelow r.sw r.src) (hacc : r.acc < 2 ^ r.cnt) :
    Reader.refill n (r.len - r.pos) r =
      { r with
        acc := r.buffered (r.digitsTaken n)
        cnt := r.cnt + r.digitsTaken n * r.sw
        pos := r.pos + r.digitsTaken n } := by
  generalize hf : r.len - r.pos = fuel
  induction fuel generalizing r with
  | zero =>
    have : r.digitsTaken n = 0 := by simp [Reader.digitsTaken]; omega
    simp [Reader.refill, this, Reader.buffered]
  | succ fuel ih =>
    unfold Reader.refill
    by_cases hc : r.cnt < n
    · have hp : r.pos < r.len := by omega
      rw [if_pos ⟨hc, hp⟩]
      have hget : r.src.getD r.pos 0#32 = r.src[r.pos]'(by omega) := by
        simp [List.getD_eq_getElem?_getD, List.getElem?_eq_getElem (by omega : r.pos < r.src.length)]
      have hdig : (r.src.getD r.pos 0#32).toNat < 2 ^ r.sw := by
        rw [hget]; exact hd _ (List.getElem_mem _)
      have hor := or_shift_eq_add (b := (r.src.getD r.pos 0#32).toNat) hacc
      have hacc' : r.acc + 2 ^ r.cnt * (r.src.getD r.pos 0#32).toNat < 2 ^ (r.cnt + r.sw) := by
        rw [pow_add]
        calc r.acc + 2 ^ r.cnt * (r.src.getD r.pos 0#32).toNat
            < 2 ^ r.cnt + 2 ^ r.cnt * (r.src.getD r.pos 0#32).toNat := by omega
          _ = 2 ^ r.cnt * ((r.src.getD r.pos 0#32).toNat + 1) := by ring
          _ ≤ 2 ^ r.cnt * 2 ^ r.sw := Nat.mul_le_mul_left _ hdig
      have hk := Reader.digitsTaken_succ hsw hc hp
      have hstep := ih
        { r with acc := r.acc ||| ((r.src.getD r.pos 0#32).toNat <<< r.cnt), cnt := r.cnt + r.sw, pos := r.pos + 1 }
        hsw hlen hp hd (by simpa only [hor] using hacc') (by simp only; omega)
      rw [hstep, hk]
      have hdrop : r.src.drop r.pos = r.src.getD r.pos 0#32 :: r.src.drop (r.pos + 1) := by
        rw [hget]; exact List.drop_eq_getElem_cons (by omega)
      simp only [Reader.buffered, hor, hdrop, List.take_succ_cons, List.map_cons, Nat.ofDigits_cons, Reader.mk.injEq,
        true_and]
      refine ⟨by omega, ?_, by ring⟩
      rw [pow_add]
      ring
    · have : r.digitsTaken n = 0 := by simp [Reader.digitsTaken]; omega
      rw [if_neg (by tauto)]
      simp [this, Reader.buffered]

/-- `RD.READ n` on a Reader that satisfies its invariants, in closed form. -/
theorem Reader.read_eq {r : Reader} (hv : r.valid = true) (h : r.Inv) (n : Nat) :
    r.read n =
      ({ r with
          acc := r.buffered (r.digitsTaken n) / 2 ^ n
          cnt := r.cnt + r.digitsTaken n * r.sw - n
          pos := r.pos + r.digitsTaken n },
        r.buffered (r.digitsTaken n) % 2 ^ n) := by
  obtain ⟨h1, -, h3, -, h5, h6, h7, -⟩ := h hv
  simp [Reader.read, Reader.refill_eq n r h1 h3 h6 h5 h7, low, Nat.shiftRight_eq_div_pow]

/-! ### The Writer -/

theorem Writer.flush_frame (fuel : Nat) (w : Writer) :
    (Writer.flush fuel w).valid = w.valid ∧ (Writer.flush fuel w).dw = w.dw := by
  induction fuel generalizing w with
  | zero => simp [Writer.flush]
  | succ fuel ih =>
    unfold Writer.flush
    split
    · simpa using ih _
    · simp

/-- `WR.WRITE` writes `WR.ACC`, `WR.CNT` and `WR.OUT` only. -/
theorem Writer.write_frame (w : Writer) (n v : Nat) : (w.write n v).valid = w.valid ∧ (w.write n v).dw = w.dw := by
  simpa [Writer.write] using Writer.flush_frame _ _

/-- The loop of R118 in closed form. -/
theorem Writer.flush_eq (w : Writer) (hdw : 1 ≤ w.dw) :
    Writer.flush (w.cnt / w.dw) w =
      { w with
        out := w.out ++ (List.range (w.cnt / w.dw)).map fun k => toWord (cutDigit w.dw w.acc k)
        acc := w.acc / 2 ^ (w.cnt / w.dw * w.dw)
        cnt := w.cnt % w.dw } := by
  generalize hf : w.cnt / w.dw = fuel
  induction fuel generalizing w with
  | zero =>
    have : w.cnt < w.dw := by
      by_contra hcon
      have := Nat.div_pos (by omega : w.dw ≤ w.cnt) (by omega)
      omega
    simp [Writer.flush, Nat.mod_eq_of_lt this]
  | succ fuel ih =>
    have hle : w.dw ≤ w.cnt := by
      by_contra hcon
      rw [Nat.div_eq_of_lt (by omega)] at hf
      omega
    unfold Writer.flush
    rw [if_pos hle]
    have hq : (w.cnt - w.dw) / w.dw = fuel := by
      have := Nat.add_div_right (w.cnt - w.dw) (by omega : 0 < w.dw)
      rw [Nat.sub_add_cancel hle] at this
      omega
    rw [ih { w with
          out := w.out ++ [toWord (low w.acc w.dw)]
          acc := w.acc >>> w.dw
          cnt := w.cnt - w.dw } hdw hq]
    simp only [Writer.mk.injEq, true_and]
    refine ⟨?_, (Nat.mod_eq_sub_mod hle).symm, ?_⟩
    · rw [Nat.shiftRight_eq_div_pow, Nat.div_div_eq_div_mul, ← pow_add]
      congr 2
      ring
    · rw [List.range_succ_eq_map, List.append_assoc]
      simp only [List.map_cons, List.map_map, List.singleton_append, List.append_cancel_left_eq, List.cons.injEq]
      refine ⟨by simp [cutDigit, low], ?_⟩
      apply List.map_congr_left
      intro k _
      simp only [Function.comp, cutDigit, Nat.shiftRight_eq_div_pow, Nat.div_div_eq_div_mul, ← pow_add]
      congr 4
      rw [Nat.succ_eq_add_one]
      ring

/-- `WR.WRITE n, value` on a Writer that satisfies its invariants, in closed form. -/
theorem Writer.write_eq {w : Writer} (hv : w.valid = true) (h : w.Inv) (n v : Nat) :
    w.write n v =
      { w with
        out := w.out ++ (List.range ((w.cnt + n) / w.dw)).map fun k => toWord (cutDigit w.dw (w.buffered n v) k)
        acc := w.buffered n v / 2 ^ ((w.cnt + n) / w.dw * w.dw)
        cnt := (w.cnt + n) % w.dw } := by
  obtain ⟨h1, -, -, -, h5, -⟩ := h hv
  simp only [Writer.write, low, or_shift_eq_add h5]
  exact Writer.flush_eq { w with acc := w.buffered n v, cnt := w.cnt + n } h1

/-! ### The Generator -/

theorem entryOf_withEntry (v : Vector Nat 56) {i : Nat} (x j : Nat) (hi : i < 56) :
    entryOf (withEntry v i x) j = if j = i then x else entryOf v j := by
  simp only [entryOf, withEntry, List.getD_eq_getElem?_getD, Vector.toList_setIfInBounds]
  by_cases h : j = i
  · subst h; simp [hi]
  · simp [Ne.symm h, h]

/-- The subtraction of R254 is `normalize` of the difference (R150). -/
theorem lagSub_eq_normalized {a b : Nat} (hb : b ≤ Config.big) : (lagSub a b : Int) = normalized ((a : Int) - b) := by
  simp only [lagSub, normalized, Config.big] at *
  split <;> split <;> omega

theorem lagSub_lt {a b : Nat} (ha : a < Config.big) (hb : b < Config.big) : lagSub a b < Config.big := by
  simp only [lagSub, Config.big] at *
  split <;> omega

/-- `GEN.NEXT` leaves `GEN.VALID` as it is. -/
@[simp] theorem Generator.draw_valid (g : Generator) : g.draw.1.valid = g.valid := rfl

/-! ### The Checksum -/

@[simp] theorem Checksum.take_valid (c : Checksum) (b : Nat) : (c.take b).valid = c.valid := by
  unfold Checksum.take; split <;> rfl

/-- The value of a pair of bytes (R181). -/
theorem pairValue_eq {a : Nat} (ha : a < 256) (b : Nat) : pairValue a b = a + 256 * b :=
  or_shift_eq_add (k := 8) ha

end Machine
end Sys2Proof
end

