-- ==== Sys2Proof/Laws/Decode.lean ====
section
/-! SUPPORT. The fields of an assembled command word (spec/30_encoding.md rule R81), and a word under the masks of R86. -/

namespace Sys2Proof

section Fields

variable {opc a b c : Nat}

theorem toNat_commandWord (ho : opc < 256) (ha : a < 256) (hb : b < 256) (hc : c < 256) :
    (commandWord opc a b c).toNat = opc * 2 ^ 24 + a * 2 ^ 16 + b * 2 ^ 8 + c := by
  simp only [commandWord, BitVec.toNat_ofNat]
  omega

theorem fieldOpc_commandWord (ho : opc < 256) (ha : a < 256) (hb : b < 256) (hc : c < 256) :
    fieldOpc (commandWord opc a b c) = opc := by
  simp only [fieldOpc, bitsOf, toNat_commandWord ho ha hb hc]
  omega

theorem fieldA_commandWord (ho : opc < 256) (ha : a < 256) (hb : b < 256) (hc : c < 256) :
    fieldA (commandWord opc a b c) = a := by
  simp only [fieldA, bitsOf, toNat_commandWord ho ha hb hc]
  omega

theorem fieldB_commandWord (ho : opc < 256) (ha : a < 256) (hb : b < 256) (hc : c < 256) :
    fieldB (commandWord opc a b c) = b := by
  simp only [fieldB, bitsOf, toNat_commandWord ho ha hb hc]
  omega

theorem fieldC_commandWord (ho : opc < 256) (ha : a < 256) (hb : b < 256) (hc : c < 256) :
    fieldC (commandWord opc a b c) = c := by
  simp only [fieldC, bitsOf, toNat_commandWord ho ha hb hc]
  omega

end Fields

/-- A command word is the word of its four fields. -/
theorem commandWord_fields (w : Word) : commandWord (fieldOpc w) (fieldA w) (fieldB w) (fieldC w) = w := by
  apply BitVec.eq_of_toNat_eq
  have := w.isLt
  simp only [commandWord, BitVec.toNat_ofNat, fieldOpc, fieldA, fieldB, fieldC, bitsOf]
  omega

/-! ### Masks -/

/-- Two integers below `2^32` with the same 32 bits are equal. -/
theorem eq_of_testBit_below {x y : Nat} (hx : x < 2 ^ 32) (hy : y < 2 ^ 32)
    (h : ∀ i < 32, x.testBit i = y.testBit i) : x = y := by
  apply Nat.eq_of_testBit_eq
  intro i
  by_cases hi : i < 32
  · exact h i hi
  · have : 2 ^ 32 ≤ 2 ^ i := Nat.pow_le_pow_right (by omega) (by omega)
    rw [Nat.testBit_lt_two_pow (by omega), Nat.testBit_lt_two_pow (by omega)]

theorem and_maskAll (w : Word) : w &&& 0xFFFFFFFF#32 = w := by
  ext i hi
  interval_cases i <;> simp

theorem toNat_and_maskA (w : Word) :
    (w &&& 0xFF00FFFF#32).toNat = w.toNat / 2 ^ 24 * 2 ^ 24 + w.toNat % 2 ^ 16 := by
  have hw := w.isLt
  refine eq_of_testBit_below (BitVec.isLt _) (by omega) fun i hi => ?_
  rw [BitVec.toNat_and, Nat.testBit_and]
  interval_cases i <;> simp [Nat.testBit] <;> omega

theorem toNat_and_maskAB (w : Word) :
    (w &&& 0xFF0000FF#32).toNat = w.toNat / 2 ^ 24 * 2 ^ 24 + w.toNat % 2 ^ 8 := by
  have hw := w.isLt
  refine eq_of_testBit_below (BitVec.isLt _) (by omega) fun i hi => ?_
  rw [BitVec.toNat_and, Nat.testBit_and]
  interval_cases i <;> simp [Nat.testBit] <;> omega

theorem toNat_and_maskSeed (w : Word) : (w &&& 0xFFFF0000#32).toNat = w.toNat / 2 ^ 16 * 2 ^ 16 := by
  have hw := w.isLt
  refine eq_of_testBit_below (BitVec.isLt _) (by omega) fun i hi => ?_
  rw [BitVec.toNat_and, Nat.testBit_and]
  interval_cases i <;> simp [Nat.testBit] <;> omega

theorem toNat_and_maskByte (w : Word) : (w &&& 0xFFFFFF00#32).toNat = w.toNat / 2 ^ 8 * 2 ^ 8 := by
  have hw := w.isLt
  refine eq_of_testBit_below (BitVec.isLt _) (by omega) fun i hi => ?_
  rw [BitVec.toNat_and, Nat.testBit_and]
  interval_cases i <;> simp [Nat.testBit] <;> omega

end Sys2Proof
end

