-- ==== Sys2Proof/Laws/PerInstr.lean ====
section
/-!
SUPPORT. A statement about every operation, proved per constructor: the command word of a well-formed operation selects
the operation's own row of the operation map (spec/30_encoding.md rule R86).
-/

namespace Sys2Proof
namespace Laws
namespace EncodingSelectsRow

/-- The encoded word selects the row of its mnemonic: `w & mask = match` (R86). -/
def Statement (i : Instr) : Prop :=
  i.WellFormed → ∃ row ∈ operationMap, row.mnemonic = i.mnemonic ∧ encode i &&& row.mask = row.pattern

/-- A row of the map is one its index names. -/
theorem of_row (i : Instr) (k : Fin 23) (hm : (operationMap.getD k ⟨"", 0, 0⟩).mnemonic = i.mnemonic)
    (hw : i.WellFormed → encode i &&& (operationMap.getD k ⟨"", 0, 0⟩).mask = (operationMap.getD k ⟨"", 0, 0⟩).pattern) :
    Statement i := by
  intro h
  have hk : k.val < operationMap.length := k.isLt
  refine ⟨operationMap.getD k ⟨"", 0, 0⟩, ?_, hm, hw h⟩
  rw [List.getD_eq_getElem _ _ hk]
  exact List.getElem_mem hk

theorem stat : Statement .stat :=
  of_row _ 0 rfl (fun _ => by decide)

theorem rdLoad (sw : Nat) : Statement (.rdLoad sw) := by
  refine of_row _ 1 rfl fun h => BitVec.eq_of_toNat_eq ?_
  simp only [Instr.WellFormed, Instr.wellFormed, decide_eq_true_eq] at h
  refine (toNat_and_maskA _).trans ?_
  simp only [encode, commandWord, BitVec.toNat_ofNat]
  simp [operationMap]
  omega

theorem rdRead (n : Nat) : Statement (.rdRead n) := by
  refine of_row _ 2 rfl fun h => BitVec.eq_of_toNat_eq ?_
  simp only [Instr.WellFormed, Instr.wellFormed, decide_eq_true_eq] at h
  refine (toNat_and_maskA _).trans ?_
  simp only [encode, commandWord, BitVec.toNat_ofNat]
  simp [operationMap]
  omega

theorem rdRem : Statement .rdRem :=
  of_row _ 3 rfl (fun _ => by decide)

theorem wrInit (dw : Nat) : Statement (.wrInit dw) := by
  refine of_row _ 4 rfl fun h => BitVec.eq_of_toNat_eq ?_
  simp only [Instr.WellFormed, Instr.wellFormed, decide_eq_true_eq] at h
  refine (toNat_and_maskA _).trans ?_
  simp only [encode, commandWord, BitVec.toNat_ofNat]
  simp [operationMap]
  omega

theorem wrWrite (n : Nat) : Statement (.wrWrite n) := by
  refine of_row _ 5 rfl fun h => BitVec.eq_of_toNat_eq ?_
  simp only [Instr.WellFormed, Instr.wellFormed, decide_eq_true_eq] at h
  refine (toNat_and_maskA _).trans ?_
  simp only [encode, commandWord, BitVec.toNat_ofNat]
  simp [operationMap]
  omega

theorem wrFin : Statement .wrFin :=
  of_row _ 6 rfl (fun _ => by decide)

theorem bitpack (sw dw : Nat) : Statement (.bitpack sw dw) := by
  refine of_row _ 7 rfl fun h => BitVec.eq_of_toNat_eq ?_
  simp only [Instr.WellFormed, Instr.wellFormed, Bool.and_eq_true, decide_eq_true_eq] at h
  refine (toNat_and_maskAB _).trans ?_
  simp only [encode, commandWord, BitVec.toNat_ofNat]
  simp [operationMap]
  omega

theorem shuf : Statement .shuf :=
  of_row _ 8 rfl (fun _ => by decide)

theorem unshuf : Statement .unshuf :=
  of_row _ 9 rfl (fun _ => by decide)

theorem genSeed (seed : Nat) : Statement (.genSeed seed) := by
  refine of_row _ 10 rfl fun h => BitVec.eq_of_toNat_eq ?_
  simp only [Instr.WellFormed, Instr.wellFormed, decide_eq_true_eq] at h
  refine (toNat_and_maskSeed _).trans ?_
  simp only [encode, commandWord, BitVec.toNat_ofNat]
  simp [operationMap]
  omega

theorem genNext : Statement .genNext :=
  of_row _ 11 rfl (fun _ => by decide)

theorem ciphDec : Statement .ciphDec :=
  of_row _ 12 rfl (fun _ => by decide)

theorem ciphEnc : Statement .ciphEnc :=
  of_row _ 13 rfl (fun _ => by decide)

theorem chkInit : Statement .chkInit :=
  of_row _ 14 rfl (fun _ => by decide)

theorem chkUpd (byte : Nat) : Statement (.chkUpd byte) := by
  refine of_row _ 15 rfl fun h => BitVec.eq_of_toNat_eq ?_
  simp only [Instr.WellFormed, Instr.wellFormed, decide_eq_true_eq] at h
  refine (toNat_and_maskByte _).trans ?_
  simp only [encode, commandWord, BitVec.toNat_ofNat]
  simp [operationMap]
  omega

theorem chkFin : Statement .chkFin :=
  of_row _ 16 rfl (fun _ => by decide)

theorem chksum : Statement .chksum :=
  of_row _ 17 rfl (fun _ => by decide)

theorem crcInit : Statement .crcInit :=
  of_row _ 18 rfl (fun _ => by decide)

theorem crcUpd (byte : Nat) : Statement (.crcUpd byte) := by
  refine of_row _ 19 rfl fun h => BitVec.eq_of_toNat_eq ?_
  simp only [Instr.WellFormed, Instr.wellFormed, decide_eq_true_eq] at h
  refine (toNat_and_maskByte _).trans ?_
  simp only [encode, commandWord, BitVec.toNat_ofNat]
  simp [operationMap]
  omega

theorem crcFin : Statement .crcFin :=
  of_row _ 20 rfl (fun _ => by decide)

theorem crc32 : Statement .crc32 :=
  of_row _ 21 rfl (fun _ => by decide)

theorem revive : Statement .revive :=
  of_row _ 22 rfl (fun _ => by decide)

end EncodingSelectsRow
end Laws
end Sys2Proof
end

