-- ==== Sys2Proof/Tests/Slice0.lean ====
section
/-!
SUPPORT. Tests of the model against numbers of the spec (spec/95_test_vectors.md unless another file is named), and for
each statement of Certificates/Slice0/Obligations.lean with hypotheses a concrete state and operands that meet them
(`witness_<name of the statement>`), clause by clause and at the ends of the ranges.
-/

namespace Sys2Proof
namespace Tests

open Machine

/-! ### Helpers -/

/-- A sequence of payload words. -/
def words (l : List Nat) : List Word := l.map toWord

/-- The reset state with this payload latched. -/
def ready (p : List Nat) : State := { State.reset with payload := words p }

/-- The reset state with this transaction waiting. -/
def waiting (w : Word) (p : List Nat) : State := { State.reset with inbox := [.transaction w (words p)] }

/-- A state in which a fault is recorded. -/
def faultedState : State := { State.reset with faultCode := 5#8, fcmd := 0x31000000#32 }

/-- The next state of an outcome, or the reset state. -/
def nextOf : StepResult → State
  | .next t => t
  | .fault _ => State.reset
  | .refused _ => State.reset

/-- The block after the transaction. -/
def after (s : State) (w : Word) (p : List Nat) : State := nextOf (step (s.submit w (words p)))

/-- The status and the result words that answer the transaction. -/
def answer (s : State) (w : Word) (p : List Nat) : Option (Nat × List Nat) :=
  (after s w p).lastResponse.map fun r => (r.status.toNat, r.result.map BitVec.toNat)

/-- A valid Reader with these registers. -/
def withRd (s : State) (sw : Nat) (src : List Nat) (pos acc cnt : Nat) : State :=
  { s with rd := { valid := true, sw := sw, src := words src, len := src.length, pos := pos, acc := acc, cnt := cnt } }

/-- A valid Writer with these registers. -/
def withWr (s : State) (dw acc cnt : Nat) (out : List Nat) : State :=
  { s with wr := { valid := true, dw := dw, acc := acc, cnt := cnt, out := words out } }

/-- An array with two entries set. -/
def entries (i x j y : Nat) : Vector Nat 56 := withEntry (withEntry (Vector.replicate 56 0) i x) j y

/-- A valid Generator with these registers. -/
def withGen (s : State) (v : Vector Nat 56) (i1 i2 : Nat) : State :=
  { s with gen := { valid := true, s := v, i1 := i1, i2 := i2 } }

/-- A valid Checksum with these registers. -/
def withChk (s : State) (sum : Nat) (ph : ChkPhase) (pend : Nat) : State :=
  { s with chk := { valid := true, sum := sum, ph := ph, pend := pend } }

/-- A valid CRC32 unit. -/
def withCrc (s : State) (r : Word) : State := { s with crc := { valid := true, r := r } }

/-- The table `PERM_T` that the vectors use. -/
def permT : Equiv.Perm (Fin 30) where
  toFun i := 7 * i + 3
  invFun j := 13 * (j - 3)
  left_inv := by decide
  right_inv := by decide

/-! ### Well-formedness: for each check an operation it refuses (spec/30_encoding.md rules R81, R87) -/

theorem test_wf_rdLoad : (Instr.rdLoad 256).wellFormed = false := by decide
theorem test_wf_rdRead : (Instr.rdRead 256).wellFormed = false := by decide
theorem test_wf_wrInit : (Instr.wrInit 256).wellFormed = false := by decide
theorem test_wf_wrWrite : (Instr.wrWrite 256).wellFormed = false := by decide
theorem test_wf_bitpack_sw : (Instr.bitpack 256 8).wellFormed = false := by decide
theorem test_wf_bitpack_dw : (Instr.bitpack 8 256).wellFormed = false := by decide
theorem test_wf_genSeed : (Instr.genSeed 65536).wellFormed = false := by decide
theorem test_wf_chkUpd : (Instr.chkUpd 256).wellFormed = false := by decide
theorem test_wf_crcUpd : (Instr.crcUpd 256).wellFormed = false := by decide
theorem test_wf_admits_bad_width : (Instr.rdRead 33).wellFormed = true := by decide

/-! ### Decoding: words written out field by field, `OPC`, `A`, `B`, `C` (spec/30_encoding.md rules R81, R85, R86) -/

theorem test_decode_stat :
    decode (0b00000000#8 ++ 0b00000000#8 ++ 0b00000000#8 ++ 0b00000000#8) = .ok .stat := by decide
theorem test_decode_rdLoad :
    decode (0b00010000#8 ++ 0b00000110#8 ++ 0b00000000#8 ++ 0b00000000#8) = .ok (.rdLoad 6) := by decide
theorem test_decode_rdRead :
    decode (0b00010001#8 ++ 0b00100001#8 ++ 0b00000000#8 ++ 0b00000000#8) = .ok (.rdRead 33) := by decide
theorem test_decode_rdRem :
    decode (0b00010010#8 ++ 0b00000000#8 ++ 0b00000000#8 ++ 0b00000000#8) = .ok .rdRem := by decide
theorem test_decode_wrInit :
    decode (0b00010100#8 ++ 0b00001000#8 ++ 0b00000000#8 ++ 0b00000000#8) = .ok (.wrInit 8) := by decide
theorem test_decode_wrWrite :
    decode (0b00010101#8 ++ 0b00001001#8 ++ 0b00000000#8 ++ 0b00000000#8) = .ok (.wrWrite 9) := by decide
theorem test_decode_wrFin :
    decode (0b00010110#8 ++ 0b00000000#8 ++ 0b00000000#8 ++ 0b00000000#8) = .ok .wrFin := by decide
theorem test_decode_bitpack :
    decode (0b00011000#8 ++ 0b00000110#8 ++ 0b00001000#8 ++ 0b00000000#8) = .ok (.bitpack 6 8) := by decide
theorem test_decode_shuf :
    decode (0b00100000#8 ++ 0b00000000#8 ++ 0b00000000#8 ++ 0b00000000#8) = .ok .shuf := by decide
theorem test_decode_unshuf :
    decode (0b00100001#8 ++ 0b00000000#8 ++ 0b00000000#8 ++ 0b00000000#8) = .ok .unshuf := by decide
theorem test_decode_genSeed :
    decode (0b00110000#8 ++ 0b00000000#8 ++ 0b00110100#8 ++ 0b00010010#8) = .ok (.genSeed 13330) := by decide
theorem test_decode_genNext :
    decode (0b00110001#8 ++ 0b00000000#8 ++ 0b00000000#8 ++ 0b00000000#8) = .ok .genNext := by decide
theorem test_decode_ciphDec :
    decode (0b01000000#8 ++ 0b00000000#8 ++ 0b00000000#8 ++ 0b00000000#8) = .ok .ciphDec := by decide
theorem test_decode_ciphEnc :
    decode (0b01000001#8 ++ 0b00000000#8 ++ 0b00000000#8 ++ 0b00000000#8) = .ok .ciphEnc := by decide
theorem test_decode_chkInit :
    decode (0b01010000#8 ++ 0b00000000#8 ++ 0b00000000#8 ++ 0b00000000#8) = .ok .chkInit := by decide
theorem test_decode_chkUpd :
    decode (0b01010001#8 ++ 0b00000000#8 ++ 0b00000000#8 ++ 0b10000010#8) = .ok (.chkUpd 130) := by decide
theorem test_decode_chkFin :
    decode (0b01010010#8 ++ 0b00000000#8 ++ 0b00000000#8 ++ 0b00000000#8) = .ok .chkFin := by decide
theorem test_decode_chksum :
    decode (0b01010011#8 ++ 0b00000000#8 ++ 0b00000000#8 ++ 0b00000000#8) = .ok .chksum := by decide
theorem test_decode_crcInit :
    decode (0b01100000#8 ++ 0b00000000#8 ++ 0b00000000#8 ++ 0b00000000#8) = .ok .crcInit := by decide
theorem test_decode_crcUpd :
    decode (0b01100001#8 ++ 0b00000000#8 ++ 0b00000000#8 ++ 0b01100001#8) = .ok (.crcUpd 0x61) := by decide
theorem test_decode_crcFin :
    decode (0b01100010#8 ++ 0b00000000#8 ++ 0b00000000#8 ++ 0b00000000#8) = .ok .crcFin := by decide
theorem test_decode_crc32 :
    decode (0b01100011#8 ++ 0b00000000#8 ++ 0b00000000#8 ++ 0b00000000#8) = .ok .crc32 := by decide
theorem test_decode_revive :
    decode (0b01100100#8 ++ 0b00000000#8 ++ 0b00000000#8 ++ 0b00000000#8) = .ok .revive := by decide

/-- V70 and R88: unused operation codes. -/
theorem test_decode_unused :
    decode 0x01000000#32 = .error (.unusedOpcode 0x01) ∧ decode 0x13000000#32 = .error (.unusedOpcode 0x13) ∧
      decode 0x65000000#32 = .error (.unusedOpcode 0x65) ∧ decode 0xFF000000#32 = .error (.unusedOpcode 0xFF) := by
  decide

/-- V70 and R88: fields that must be zero. -/
theorem test_decode_nonzero :
    decode 0x00000001#32 = .error (.nonzeroField 0x00) ∧ decode 0x31000001#32 = .error (.nonzeroField 0x31) ∧
      decode 0x11080100#32 = .error (.nonzeroField 0x11) ∧ decode 0x18060801#32 = .error (.nonzeroField 0x18) ∧
      decode 0x30010000#32 = .error (.nonzeroField 0x30) ∧ decode 0x51000100#32 = .error (.nonzeroField 0x51) := by
  decide

/-- A row of the opcode table gives the operation, and the step runs it as the first one after reset. -/
theorem test_table_word :
    decodeTableWord 32 0x50000000 = some .chkInit ∧
      (nextOf (step (State.reset.withFetchWord 32 0x50000000))).chk = Checksum.init := by decide

/-! ### Status and faults -/

/-- V70: all five units valid. -/
theorem test_stat_flags :
    answer (withCrc (withChk (withGen (withWr (withRd State.reset 6 [] 0 0 0) 8 0 0 []) (entries 1 1 2 2) 0 21) 0 .first 0)
      0#32) 0#32 [] = some (0, [0x1F00, 0]) := by decide

/-- P2, transaction 4: `STAT` while a fault is recorded. -/
theorem test_stat_faulted : answer faultedState 0#32 [] = some (0, [5, 0x31000000]) := by decide

/-- R261, R262: with a payload it is answered `BAD_LENGTH`, and the first record stays. -/
theorem test_stat_payload_faulted :
    answer faultedState 0#32 [1] = some (3, []) ∧ (after faultedState 0#32 [1]).faultCode = 5#8 ∧
      (after faultedState 0#32 [1]).fcmd = 0x31000000#32 := by decide

/-- P2, transaction 3: any other operation while a fault is recorded. -/
theorem test_faulted_refuses :
    answer faultedState 0x3000007B#32 [] = some (7, []) ∧ (after faultedState 0x3000007B#32 []).fcmd = 0x31000000#32 := by
  decide

/-- V70: an illegal word is recorded. -/
theorem test_illegal :
    answer State.reset 0x31000001#32 [] = some (1, []) ∧ (after State.reset 0x31000001#32 []).faultCode = 1#8 ∧
      (after State.reset 0x31000001#32 []).fcmd = 0x31000001#32 := by decide

/-- R261: `BAD_WIDTH` before `NOT_READY` (P5, 4), and before `DIGIT_RANGE`. -/
theorem test_check_order :
    answer State.reset 0x11210000#32 [] = some (2, []) ∧ answer State.reset 0x18000800#32 [0x100] = some (2, []) ∧
      answer State.reset 0x20000000#32 (64 :: List.replicate 28 0) = some (3, []) := by decide

/-- R264: reset clears the record (P2). -/
theorem test_reset_clears :
    (nextOf (step { faultedState with inbox := [.reset] })).faultCode = 0#8 ∧
      (nextOf (step { faultedState with inbox := [.reset] })).fcmd = 0#32 := by decide

/-! ### Bitstream (V10 to V16) -/

theorem test_rdLoad :
    (after State.reset 0x10060000#32 [0x2B, 0x15, 0x3F, 0x01]).rd =
      (withRd State.reset 6 [0x2B, 0x15, 0x3F, 0x01] 0 0 0).rd := by decide

/-- P5, 2. -/
theorem test_rdLoad_range :
    answer State.reset 0x10060000#32 [0x40] = some (4, []) ∧
      (after State.reset 0x10060000#32 [0x40]).rd.valid = false := by decide

/-- V10: the first read. -/
theorem test_rdRead :
    answer (withRd State.reset 6 [0x2B, 0x15, 0x3F, 0x01] 0 0 0) 0x11080000#32 [] = some (0, [0x6B]) ∧
      (after (withRd State.reset 6 [0x2B, 0x15, 0x3F, 0x01] 0 0 0) 0x11080000#32 []).rd =
        (withRd State.reset 6 [0x2B, 0x15, 0x3F, 0x01] 2 5 4).rd := by decide

/-- V11: a read past the end, where the count saturates. -/
theorem test_rdRead_past_end :
    answer (withRd State.reset 8 [0xEF, 0xBE, 0xAD, 0xDE, 0x05] 5 1 6) 0x11090000#32 [] = some (0, [1]) ∧
      (after (withRd State.reset 8 [0xEF, 0xBE, 0xAD, 0xDE, 0x05] 5 1 6) 0x11090000#32 []).rd =
        (withRd State.reset 8 [0xEF, 0xBE, 0xAD, 0xDE, 0x05] 5 0 0).rd := by decide

/-- R114: six zero bits are still buffered. -/
theorem test_rdRem_zero_bits : answer (withRd State.reset 8 [1, 0, 0] 3 0 6) 0x12000000#32 [] = some (0, [1]) := by decide

/-- V12: an empty Reader. -/
theorem test_rdRem_end : answer (withRd State.reset 6 [] 0 0 0) 0x12000000#32 [] = some (0, [0]) := by decide

theorem test_wrInit : (after State.reset 0x14080000#32 []).wr = (withWr State.reset 8 0 0 []).wr := by decide
theorem test_wrInit_width : answer State.reset 0x14210000#32 [] = some (2, []) := by decide

/-- V13, line 4. -/
theorem test_wrWrite :
    (after (withWr State.reset 8 1 2 [0xEF, 0xBE, 0xAD, 0xDE]) 0x15090000#32 [0x1A5]).wr =
      (withWr State.reset 8 6 3 [0xEF, 0xBE, 0xAD, 0xDE, 0x95]).wr := by decide

/-- V13, line 5: the value is masked. -/
theorem test_wrWrite_masks :
    (after (withWr State.reset 8 6 3 []) 0x15030000#32 [0xFF]).wr = (withWr State.reset 8 62 6 []).wr := by decide

/-- V13, line 6. -/
theorem test_wrFin :
    answer (withWr State.reset 8 62 6 [0xEF, 0xBE, 0xAD, 0xDE, 0x95]) 0x16000000#32 [] =
      some (0, [0xEF, 0xBE, 0xAD, 0xDE, 0x95, 0x3E]) := by decide

/-- V14: no partial digit. -/
theorem test_wrFin_whole :
    answer (withWr State.reset 8 0 0 []) 0x16000000#32 [] = some (0, []) ∧
      (after (withWr State.reset 8 0 0 []) 0x16000000#32 []).wr.valid = false := by decide

/-- V15 (b). -/
theorem test_bitpack :
    answer State.reset 0x18080600#32 [0x6B, 0xF5, 0x07] = some (0, [0x2B, 0x15, 0x3F, 0x01]) := by decide

/-- V15 (d), which the other reading of `remaining()` fails. -/
theorem test_bitpack_zeros : answer State.reset 0x18080600#32 [1, 0, 0] = some (0, [1, 0, 0, 0]) := by decide

/-! ### Permutation (V20, with `PERM_T`) -/

theorem test_shuf_table :
    shuffle permT (words (List.range 30)) =
      words [21, 4, 17, 0, 13, 26, 9, 22, 5, 18, 1, 14, 27, 10, 23, 6, 19, 2, 15, 28, 11, 24, 7, 20, 3, 16, 29, 12, 25, 8] := by
  decide

theorem test_unshuf_table :
    unshuffle permT (words (List.range 30)) =
      words [3, 10, 17, 24, 1, 8, 15, 22, 29, 6, 13, 20, 27, 4, 11, 18, 25, 2, 9, 16, 23, 0, 7, 14, 21, 28, 5, 12, 19, 26] := by
  decide

/-- P5, 5. -/
theorem test_shuf_length : answer State.reset 0x20000000#32 (List.replicate 29 0) = some (3, []) := by decide
theorem test_unshuf_range : answer State.reset 0x21000000#32 (64 :: List.replicate 29 0) = some (4, []) := by decide

/-! ### Generator (V30) -/

/-- V30: the array of seed 123 before the passes. -/
theorem test_genSeed_placement : (placed 123).toList =
    [0, 617515541, 1988812992, 2103442554, 783294266, 779504707, 2063232648,
     1837576609, 1985680374, 379211434, 1830944124, 1838238199, 727319221, 464934986,
     659652746, 1592537248, 809016367, 1248153452, 1107487437, 1192940699, 21501029,
     1, 1572105311, 1909878558, 897098553, 1829048567, 1695961670, 1361442697] ++
    [641315105, 323606547, 813682443, 395473957, 1515589449, 374410125, 766091698,
     42137205, 1751207903, 853057460, 464859186, 327982730, 1277191698, 331408067,
     161803274, 1192893877, 78934434, 1206344001, 1101729346, 1231026684, 701789951,
     1196261504, 1662073827, 1713012638, 1435470167, 322648750, 352909096, 161803275] := by
  decide +kernel

/-- V30: the array that `GEN.SEED 123` leaves. -/
theorem test_genSeed : (after State.reset 0x3000007B#32 []).gen.s.toList =
    [0, 1496212120, 1095317191, 886048080, 375714301, 1610821810, 1242207777,
     339822554, 2136655986, 1292172414, 1366279060, 1674978185, 1590816703, 525093857,
     79746987, 171896818, 1089508014, 1253135198, 861506230, 1830488259, 1910237636,
     424445992, 1529375892, 1293282277, 1436779886, 780210770, 24305677, 1138452069] ++
    [303313465, 1815909075, 874048964, 13172232, 1868764486, 527401146, 118920278,
     1237433952, 2909747, 1419281541, 36508872, 313330301, 1815802327, 2037385142,
     80882732, 1476836455, 1766762802, 1432123378, 1307107176, 802136216, 1814674902,
     519351769, 697040154, 572671953, 880783982, 38321784, 1046190808, 2111290171] := by
  decide +kernel

/-- V30: the first draw of seed 123. -/
theorem test_genNext :
    answer (withGen State.reset (entries 1 1496212120 22 1529375892) 0 21) 0x31000000#32 [] = some (0, [2114319875]) ∧
      (after (withGen State.reset (entries 1 1496212120 22 1529375892) 0 21) 0x31000000#32 []).gen =
        (withGen State.reset (entries 1 2114319875 22 1529375892) 1 22).gen := by decide +kernel

/-- V33: at draw 35 the second cursor wraps and reads what draw 1 stored. -/
theorem test_genNext_wraps :
    (after (withGen State.reset (entries 35 1237433952 1 2114319875) 34 55) 0x31000000#32 []).gen.i2 = 1 ∧
      answer (withGen State.reset (entries 35 1237433952 1 2114319875) 34 55) 0x31000000#32 [] =
        some (0, [1270597724]) := by decide +kernel

/-! ### Stream Cipher (V41) -/

theorem test_ciphEnc :
    answer State.reset 0x41000000#32 [0x7B, 0x00, 0xFF, 0xFF] = some (0, [0x7B, 0x00, 0x02, 0x20]) := by decide +kernel
theorem test_ciphEnc_seed_byte : answer State.reset 0x41000000#32 [0x7B, 0xFF] = some (0, [0x7B, 0x0F]) := by
  decide +kernel
theorem test_ciphDec :
    answer State.reset 0x40000000#32 [0xFF, 0xFF, 0x00, 0x00, 0x00, 0x00] =
      some (0, [0xFF, 0xFF, 0x54, 0x99, 0x09, 0x00]) := by decide +kernel

/-- P5, 6. -/
theorem test_ciphDec_length : answer State.reset 0x40000000#32 [1] = some (3, []) := by decide

/-! ### Checksum (V50, V51) -/

theorem test_chkInit : (after State.reset 0x50000000#32 []).chk = (withChk State.reset 0 .first 0).chk := by decide
theorem test_chkUpd :
    (after (withChk State.reset 1 .hi 2) 0x51000003#32 []).chk = (withChk State.reset 771 .lo 2).chk := by decide

/-- R185: the sum would reach `2^32`. -/
theorem test_chkUpd_overflow :
    answer (withChk State.reset 0xFFFFFFFF .hi 1) 0x51000000#32 [] = some (6, []) ∧
      answer (withChk State.reset 0xFFFFFFFE .hi 1) 0x51000000#32 [] = some (0, []) := by decide
theorem test_chkFin : answer (withChk State.reset 771 .hi 4) 0x52000000#32 [] = some (0, [0xF5]) := by decide

/-- P5, 7. -/
theorem test_chkFin_empty :
    answer (withChk State.reset 0 .first 0) 0x52000000#32 [] = some (3, []) ∧
      (after (withChk State.reset 0 .first 0) 0x52000000#32 []).chk.valid = true := by decide
theorem test_chksum : answer State.reset 0x53000000#32 (List.range 22) = some (0, [0x18]) := by decide +kernel
theorem test_chksum_folds : answer State.reset 0x53000000#32 [0x01, 0xFF, 0xFF] = some (0, [0xFE]) := by decide +kernel

/-! ### CRC32 (spec/46_crc32.md rule R195; V60, P6) -/

/-- R195: entries 0 to 63 as the spec prints them. -/
theorem test_crcTable_0 : (List.range' 0 64).map crcTab =
    [0x00000000, 0x77073096, 0xEE0E612C, 0x990951BA, 0x076DC419, 0x706AF48F, 0xE963A535, 0x9E6495A3,
     0x0EDB8832, 0x79DCB8A4, 0xE0D5E91E, 0x97D2D988, 0x09B64C2B, 0x7EB17CBD, 0xE7B82D07, 0x90BF1D91,
     0x1DB71064, 0x6AB020F2, 0xF3B97148, 0x84BE41DE, 0x1ADAD47D, 0x6DDDE4EB, 0xF4D4B551, 0x83D385C7,
     0x136C9856, 0x646BA8C0, 0xFD62F97A, 0x8A65C9EC, 0x14015C4F, 0x63066CD9, 0xFA0F3D63, 0x8D080DF5] ++
    [0x3B6E20C8, 0x4C69105E, 0xD56041E4, 0xA2677172, 0x3C03E4D1, 0x4B04D447, 0xD20D85FD, 0xA50AB56B,
     0x35B5A8FA, 0x42B2986C, 0xDBBBC9D6, 0xACBCF940, 0x32D86CE3, 0x45DF5C75, 0xDCD60DCF, 0xABD13D59,
     0x26D930AC, 0x51DE003A, 0xC8D75180, 0xBFD06116, 0x21B4F4B5, 0x56B3C423, 0xCFBA9599, 0xB8BDA50F,
     0x2802B89E, 0x5F058808, 0xC60CD9B2, 0xB10BE924, 0x2F6F7C87, 0x58684C11, 0xC1611DAB, 0xB6662D3D] := by
  decide +kernel

/-- R195: entries 64 to 127 as the spec prints them. -/
theorem test_crcTable_1 : (List.range' 64 64).map crcTab =
    [0x76DC4190, 0x01DB7106, 0x98D220BC, 0xEFD5102A, 0x71B18589, 0x06B6B51F, 0x9FBFE4A5, 0xE8B8D433,
     0x7807C9A2, 0x0F00F934, 0x9609A88E, 0xE10E9818, 0x7F6A0DBB, 0x086D3D2D, 0x91646C97, 0xE6635C01,
     0x6B6B51F4, 0x1C6C6162, 0x856530D8, 0xF262004E, 0x6C0695ED, 0x1B01A57B, 0x8208F4C1, 0xF50FC457,
     0x65B0D9C6, 0x12B7E950, 0x8BBEB8EA, 0xFCB9887C, 0x62DD1DDF, 0x15DA2D49, 0x8CD37CF3, 0xFBD44C65] ++
    [0x4DB26158, 0x3AB551CE, 0xA3BC0074, 0xD4BB30E2, 0x4ADFA541, 0x3DD895D7, 0xA4D1C46D, 0xD3D6F4FB,
     0x4369E96A, 0x346ED9FC, 0xAD678846, 0xDA60B8D0, 0x44042D73, 0x33031DE5, 0xAA0A4C5F, 0xDD0D7CC9,
     0x5005713C, 0x270241AA, 0xBE0B1010, 0xC90C2086, 0x5768B525, 0x206F85B3, 0xB966D409, 0xCE61E49F,
     0x5EDEF90E, 0x29D9C998, 0xB0D09822, 0xC7D7A8B4, 0x59B33D17, 0x2EB40D81, 0xB7BD5C3B, 0xC0BA6CAD] := by
  decide +kernel

/-- R195: entries 128 to 191 as the spec prints them. -/
theorem test_crcTable_2 : (List.range' 128 64).map crcTab =
    [0xEDB88320, 0x9ABFB3B6, 0x03B6E20C, 0x74B1D29A, 0xEAD54739, 0x9DD277AF, 0x04DB2615, 0x73DC1683,
     0xE3630B12, 0x94643B84, 0x0D6D6A3E, 0x7A6A5AA8, 0xE40ECF0B, 0x9309FF9D, 0x0A00AE27, 0x7D079EB1,
     0xF00F9344, 0x8708A3D2, 0x1E01F268, 0x6906C2FE, 0xF762575D, 0x806567CB, 0x196C3671, 0x6E6B06E7,
     0xFED41B76, 0x89D32BE0, 0x10DA7A5A, 0x67DD4ACC, 0xF9B9DF6F, 0x8EBEEFF9, 0x17B7BE43, 0x60B08ED5] ++
    [0xD6D6A3E8, 0xA1D1937E, 0x38D8C2C4, 0x4FDFF252, 0xD1BB67F1, 0xA6BC5767, 0x3FB506DD, 0x48B2364B,
     0xD80D2BDA, 0xAF0A1B4C, 0x36034AF6, 0x41047A60, 0xDF60EFC3, 0xA867DF55, 0x316E8EEF, 0x4669BE79,
     0xCB61B38C, 0xBC66831A, 0x256FD2A0, 0x5268E236, 0xCC0C7795, 0xBB0B4703, 0x220216B9, 0x5505262F,
     0xC5BA3BBE, 0xB2BD0B28, 0x2BB45A92, 0x5CB36A04, 0xC2D7FFA7, 0xB5D0CF31, 0x2CD99E8B, 0x5BDEAE1D] := by
  decide +kernel

/-- R195: entries 192 to 255 as the spec prints them. -/
theorem test_crcTable_3 : (List.range' 192 64).map crcTab =
    [0x9B64C2B0, 0xEC63F226, 0x756AA39C, 0x026D930A, 0x9C0906A9, 0xEB0E363F, 0x72076785, 0x05005713,
     0x95BF4A82, 0xE2B87A14, 0x7BB12BAE, 0x0CB61B38, 0x92D28E9B, 0xE5D5BE0D, 0x7CDCEFB7, 0x0BDBDF21,
     0x86D3D2D4, 0xF1D4E242, 0x68DDB3F8, 0x1FDA836E, 0x81BE16CD, 0xF6B9265B, 0x6FB077E1, 0x18B74777,
     0x88085AE6, 0xFF0F6A70, 0x66063BCA, 0x11010B5C, 0x8F659EFF, 0xF862AE69, 0x616BFFD3, 0x166CCF45] ++
    [0xA00AE278, 0xD70DD2EE, 0x4E048354, 0x3903B3C2, 0xA7672661, 0xD06016F7, 0x4969474D, 0x3E6E77DB,
     0xAED16A4A, 0xD9D65ADC, 0x40DF0B66, 0x37D83BF0, 0xA9BCAE53, 0xDEBB9EC5, 0x47B2CF7F, 0x30B5FFE9,
     0xBDBDF21C, 0xCABAC28A, 0x53B39330, 0x24B4A3A6, 0xBAD03605, 0xCDD70693, 0x54DE5729, 0x23D967BF,
     0xB3667A2E, 0xC4614AB8, 0x5D681B02, 0x2A6F2B94, 0xB40BBE37, 0xC30C8EA1, 0x5A05DF1B, 0x2D02EF8D] := by
  decide +kernel

theorem test_crcInit : (after State.reset 0x60000000#32 []).crc = (withCrc State.reset 0xFFFFFFFF#32).crc := by decide
theorem test_crcUpd :
    (after (withCrc State.reset 0xFFFFFFFF#32) 0x61000061#32 []).crc = (withCrc State.reset 0x174841BC#32).crc := by
  decide +kernel
theorem test_crcFin : answer (withCrc State.reset 0x174841BC#32) 0x62000000#32 [] = some (0, [0xE8B7BE43]) := by decide
theorem test_crc32 :
    answer State.reset 0x63000000#32 [0x31, 0x32, 0x33, 0x34, 0x35, 0x36, 0x37, 0x38, 0x39] = some (0, [0xCBF43926]) := by
  decide +kernel
theorem test_crc32_empty : answer State.reset 0x63000000#32 [] = some (0, [0]) := by decide +kernel
theorem test_revive : answer State.reset 0x64000000#32 [0x61] = some (0, [0x28B7BE43]) := by decide +kernel

/-! ### The host's side (V4 to V6, P3, P7) -/

theorem test_symbols :
    successor 0 = 1 ∧ successor 63 = 0 ∧ predecessor 0 = 63 ∧ symbolAt 63 = ('D', 's') ∧
      indexOf 'p' 'F' = .ok 9 ∧ indexOf 'X' 'e' = .ok 51 ∧ indexOf 'M' 's' = .ok 62 := by decide
theorem test_symbols_refused :
    indexOf 'X' 's' = .error .invalidSymbol ∧ indexOf '0' 'f' = .error .invalidSymbol ∧
      indexOf '1' 'x' = .error .invalidSymbol ∧ parseText ['1', 'f'] = .error .invalidLength := by decide

/-- V6: the example password's first ten symbols. -/
theorem test_example_symbols :
    parseGroups "Pf8sPs4fPhXe3f7h1h2h".toList = .ok [9, 59, 61, 3, 22, 51, 2, 19, 13, 14] := by decide

/-- The rescue record of P7. -/
def recordP7 : Record where
  timestamp := 0x60D4A3F1
  unk1 := 1
  team := [0x101, 0x0A5, 0x1FF, 0x001, 0x12C]
  variant := .rescue { dungeon := 0x2A, floor := 0x63, pokemon := 0x195, gender := 2, reward := 1, unk2 := 1 } 0
  checksum := 0x17
  calculated := 0x17

/-- R251: a revival record built from a rescue record, and both in interchange form. -/
theorem test_interchange :
    Record.ofFlat recordP7.toFlat = some recordP7 ∧
      Record.ofFlat { recordP7 with variant := .revival 7 }.toFlat = some { recordP7 with variant := .revival 7 } ∧
      recordP7.toRevival.toFlat.lookup .type = some (.number 1) ∧ recordP7.toRevival.toFlat.lookup .dungeon = none := by
  decide

/-- R251: a rescue record without its dungeon, and a revival record with one, are refused. -/
theorem test_interchange_refused :
    Record.ofFlat (recordP7.toFlat.filter fun e => e.1 ≠ .dungeon) = none ∧
      Record.ofFlat ((.dungeon, .number 1) :: recordP7.toRevival.toFlat) = none := by decide

/-- The body of P7. -/
def bodyP7 : List Nat :=
  [0xF1, 0xA3, 0xD4, 0x60, 0x06, 0x2C, 0xF5, 0x3F, 0x00, 0x4B, 0x00, 0x00, 0x00, 0x00, 0x00, 0x00, 0x00,
   0x80, 0x6A, 0x5C, 0x19, 0x0B]

theorem test_encodeFields :
    (match encodeFields recordP7 State.reset with
      | .ok (body, _) => body
      | .error _ => []) = words bodyP7 := by decide +kernel
theorem test_decodeFields :
    (match decodeFields (words bodyP7) State.reset with
      | .ok (f, _) => (f.common.take 4, f.tail)
      | .error _ => ([], [])) = ([0x60D4A3F1, 0, 1, 0x101], [0x2A, 0x63, 0x195, 2, 1, 1]) := by decide +kernel

/-! ### Witnesses: encoding and the step -/

theorem witness_DecodeOfEncodeIsIdentity :
    (Instr.bitpack 255 0).WellFormed ∧ (Instr.genSeed 65535).WellFormed ∧ (Instr.chkUpd 255).WellFormed := by decide

theorem witness_EncodeOfDecodeIsIdentity :
    decode 0x3000FFFF#32 = .ok (.genSeed 65535) ∧ decode 0x11FF0000#32 = .ok (.rdRead 255) := by decide

theorem witness_DecodeSelectsOperationMapRow :
    (⟨"RD.READ", 0x11000000, 0xFF00FFFF⟩ : MapRow) ∈ operationMap ∧
      0x11FF0000#32 &&& 0xFF00FFFF#32 = 0x11000000#32 ∧ 0x11FF0001#32 &&& 0xFF00FFFF#32 ≠ 0x11000000#32 := by decide

theorem witness_IllegalCommandWordsRaiseIllegalOp :
    decode 0x65000000#32 = .error (.unusedOpcode 0x65) ∧ decode 0x00000001#32 = .error (.nonzeroField 0) ∧
      (waiting 0x65000000#32 [1]).inbox = .transaction 0x65000000#32 [1#32] :: [] ∧
      (waiting 0x65000000#32 [1]).faultCode = 0#8 := by decide

theorem witness_StepRunsDecodedOperation :
    (waiting 0x11200000#32 []).inbox = .transaction 0x11200000#32 [] :: [] ∧
      decode 0x11200000#32 = .ok (.rdRead 32) := by decide

theorem witness_IdleBlockKeepsItsState : faultedState.inbox = [] := by decide

theorem witness_EveryStepAnswersExactlyOnce :
    (waiting 0#32 []).inbox = .transaction 0#32 [] :: [] ∧
      (∀ w p rest, ({ State.reset with inbox := [.reset] } : State).inbox ≠ .transaction w p :: rest) :=
  ⟨rfl, fun _ _ _ h => by simp at h⟩

theorem witness_FaultedBlockRefusesAllButStat :
    ({ faultedState with inbox := [.transaction 1#32 []] } : State).inbox = .transaction 1#32 [] :: [] ∧
      ({ faultedState with inbox := [.transaction 0#32 []] } : State).inbox = .transaction 0#32 [] :: [] ∧
      faultedState.faultCode ≠ 0#8 ∧ 1#32 ≠ 0#32 := by decide

theorem witness_FaultsArePreciseAndAtomic :
    (waiting 0x31000000#32 []).inbox = .transaction 0x31000000#32 [] :: [] ∧
      (waiting 0x31000000#32 []).faultCode = 0#8 ∧
      step (waiting 0x31000000#32 []) = .next (nextOf (step (waiting 0x31000000#32 []))) ∧
      (nextOf (step (waiting 0x31000000#32 []))).faultCode ≠ 0#8 := ⟨rfl, rfl, rfl, by decide⟩

/-- First clause: a refused draw; second clause: a reset. -/
theorem witness_OnlyResetClearsTheFaultRecord :
    step { faultedState with inbox := [.transaction 0x31000000#32 []] } =
        .next (nextOf (step { faultedState with inbox := [.transaction 0x31000000#32 []] })) ∧
      (∀ rest, ({ faultedState with inbox := [.transaction 0x31000000#32 []] } : State).inbox ≠ .reset :: rest) ∧
      step { faultedState with inbox := [.reset] } = .next (nextOf (step { faultedState with inbox := [.reset] })) ∧
      faultedState.faultCode ≠ 0#8 :=
  ⟨rfl, fun _ h => by simp at h, rfl, by decide⟩

theorem witness_ResetMoveClearsFlagsAndRecord :
    ({ faultedState with inbox := [.reset, .transaction 0#32 []] } : State).inbox = .reset :: [.transaction 0#32 []] := rfl

/-- A state with every unit valid, a draw waiting. -/
def busyState : State :=
  withCrc (withChk (withGen (withWr (withRd (waiting 0x31000000#32 []) 6 [0x2B, 0x3F] 1 5 4) 8 1 2 [255])
    (entries 35 1 1 2) 34 55) 0xFFFFFFFF .hi 255) 5#32

theorem busyState_rd_inv : busyState.rd.Inv := by
  intro _
  simp only [← digitOver_eq_false]
  decide
theorem busyState_wr_inv : busyState.wr.Inv := by
  intro _
  simp only [← digitOver_eq_false]
  decide
theorem busyState_gen_inv : busyState.gen.Inv := by intro _; decide +kernel
theorem busyState_chk_inv : busyState.chk.Inv := by intro _; decide

theorem busyState_inv : busyState.Inv where
  rd := busyState_rd_inv
  wr := busyState_wr_inv
  gen := busyState_gen_inv
  chk := busyState_chk_inv
  record := ⟨by decide, fun _ => rfl⟩
  responses := fun _ h => by simp [busyState, withCrc, withChk, withGen, withWr, withRd, waiting, State.reset] at h

theorem witness_StepKeepsInvariant :
    busyState.Inv ∧ step busyState = .next (nextOf (step busyState)) ∧ busyState.gen.valid = true :=
  ⟨busyState_inv, rfl, rfl⟩

/-- Two states that differ in every register of a unit that is not valid. -/
theorem witness_UnspecifiedRegistersAreNeverObserved :
    (waiting 0x31000000#32 []).Agree { waiting 0x31000000#32 [] with
      rd := { valid := false, sw := 7, src := [1#32], len := 9, pos := 8, acc := 3, cnt := 99 }
      crc := { valid := false, r := 5#32 }
      freeDraws := 4 } ∧
      step (waiting 0x31000000#32 []) = .next (nextOf (step (waiting 0x31000000#32 []))) := by
  refine ⟨⟨rfl, fun h => ?_, rfl, fun _ => rfl, rfl, fun _ => rfl, rfl, fun _ => rfl, rfl, fun h => ?_, rfl, rfl, rfl, rfl⟩,
    rfl⟩ <;> exact absurd h (by decide)

/-! ### Witnesses: the operations -/

theorem witness_StatReturnsRecordAndFlags : faultedState.payload = [] ∧ decode 0#32 = .ok .stat := by decide

/-- The two ends of the widths, and each code of the refusal. -/
theorem witness_RdLoadConstructsReader :
    ((ready [1, 0]).faultCode = 0#8 ∧ 1 ≤ 1 ∧ 1 ≤ 32 ∧ AtMostMaxLen (ready [1, 0]).payload.length ∧
        DigitsBelow 1 (ready [1, 0]).payload) ∧
      (AtMostMaxLen (ready [0xFFFFFFFF]).payload.length ∧ DigitsBelow 32 (ready [0xFFFFFFFF]).payload) ∧
      AtMostMaxLen 256 ∧
      ¬ (1 ≤ 0 ∧ 0 ≤ 32 ∧ AtMostMaxLen (ready []).payload.length ∧ DigitsBelow 0 (ready []).payload) ∧
      ¬ (1 ≤ 33 ∧ 33 ≤ 32 ∧ AtMostMaxLen (ready []).payload.length ∧ DigitsBelow 33 (ready []).payload) ∧
      ¬ (1 ≤ 1 ∧ 1 ≤ 32 ∧ AtMostMaxLen (ready [2]).payload.length ∧ DigitsBelow 1 (ready [2]).payload) := by
  simp only [← digitOver_eq_false]
  decide

/-- A read of 0, of 32 and past the end; a count of 33, no Reader, a payload. -/
theorem witness_RdReadReturnsNextBits :
    (busyState.faultCode = 0#8 ∧ 0 ≤ 32 ∧ 32 ≤ 32 ∧ busyState.rd.valid = true ∧ busyState.payload = [] ∧
        busyState.rd.Inv) ∧
      ¬ (33 ≤ 32 ∧ busyState.rd.valid = true ∧ busyState.payload = []) ∧
      ¬ (32 ≤ 32 ∧ (ready []).rd.valid = true ∧ (ready []).payload = []) ∧
      ¬ (0 ≤ 32 ∧ busyState.rd.valid = true ∧ (ready [1]).payload = []) :=
  ⟨⟨rfl, by decide, by decide, rfl, rfl, busyState_rd_inv⟩, by decide, by decide, by decide⟩

theorem witness_RdRemReportsUnreadData :
    (busyState.faultCode = 0#8 ∧ busyState.rd.valid = true ∧ busyState.payload = []) ∧
      (ready []).faultCode = 0#8 ∧ ¬ ((ready []).rd.valid = true ∧ (ready []).payload = []) ∧
      ¬ ((withRd (ready [1]) 8 [] 0 0 0).rd.valid = true ∧ (withRd (ready [1]) 8 [] 0 0 0).payload = []) := by decide

theorem witness_WrInitConstructsWriter :
    ((ready []).faultCode = 0#8 ∧ 1 ≤ 1 ∧ 1 ≤ 32 ∧ 32 ≤ 32 ∧ (ready []).payload = []) ∧
      ¬ (1 ≤ 0 ∧ 0 ≤ 32 ∧ (ready []).payload = []) ∧ ¬ (1 ≤ 33 ∧ 33 ≤ 32 ∧ (ready []).payload = []) ∧
      ¬ (1 ≤ 8 ∧ 8 ≤ 32 ∧ (ready [1]).payload = []) := by decide

/-- A Writer with one bit to go before a digit is complete. -/
def fillingWriter : State := withWr (ready [0xFFFFFFFF]) 32 1 31 []

theorem fillingWriter_inv : fillingWriter.wr.Inv := by
  intro _
  simp only [← digitOver_eq_false]
  decide

/-- Writes of 0 and 32 bits; a count of 33, no Writer, no payload word. -/
theorem witness_WrWriteAppendsLowBits :
    (fillingWriter.faultCode = 0#8 ∧ 0 ≤ 32 ∧ 32 ≤ 32 ∧ fillingWriter.wr.valid = true ∧
        fillingWriter.payload = [0xFFFFFFFF#32] ∧
        AtMostMaxLen (fillingWriter.wr.out.length + (fillingWriter.wr.cnt + 32) / fillingWriter.wr.dw) ∧
        fillingWriter.wr.Inv) ∧
      ¬ (33 ≤ 32 ∧ fillingWriter.wr.valid = true ∧ fillingWriter.payload.length = 1 ∧
        AtMostMaxLen (fillingWriter.wr.out.length + (fillingWriter.wr.cnt + 33) / fillingWriter.wr.dw)) ∧
      ¬ (0 ≤ 32 ∧ (ready [1]).wr.valid = true ∧ (ready [1]).payload.length = 1 ∧
        AtMostMaxLen ((ready [1]).wr.out.length + ((ready [1]).wr.cnt + 0) / (ready [1]).wr.dw)) ∧
      ¬ (0 ≤ 32 ∧ busyState.wr.valid = true ∧ busyState.payload.length = 1 ∧
        AtMostMaxLen (busyState.wr.out.length + (busyState.wr.cnt + 0) / busyState.wr.dw)) :=
  ⟨⟨rfl, by decide, by decide, rfl, rfl, by decide, fillingWriter_inv⟩, by decide, by decide, by decide⟩

/-- A Writer that holds bits and one that holds none; no Writer, a payload. -/
theorem witness_WrFinReturnsDigits :
    (busyState.faultCode = 0#8 ∧ busyState.wr.valid = true ∧ busyState.payload = [] ∧ 0 < busyState.wr.cnt ∧
        AtMostMaxLen (busyState.wr.out.length + 1)) ∧
      ((withWr (ready []) 8 0 0 []).wr.valid = true ∧ ¬ 0 < (withWr (ready []) 8 0 0 []).wr.cnt) ∧
      ¬ ((ready []).wr.valid = true ∧ (ready []).payload = [] ∧
        (0 < (ready []).wr.cnt → AtMostMaxLen ((ready []).wr.out.length + 1))) ∧
      ¬ (fillingWriter.wr.valid = true ∧ fillingWriter.payload = [] ∧
        (0 < fillingWriter.wr.cnt → AtMostMaxLen (fillingWriter.wr.out.length + 1))) := by decide

/-- Widths 1 and 32, and the empty sequence; each width out of range, a digit out of range. -/
theorem witness_BitpackRecutsTheBitString :
    ((ready [1, 0, 1]).faultCode = 0#8 ∧ 1 ≤ 1 ∧ 1 ≤ 32 ∧ 32 ≤ 32 ∧ AtMostMaxLen (ready [1, 0, 1]).payload.length ∧
        DigitsBelow 1 (ready [1, 0, 1]).payload ∧ AtMostMaxLen (((ready [1, 0, 1]).payload.length * 1 + 32 - 1) / 32)) ∧
      (DigitsBelow 32 (ready [0xFFFFFFFF]).payload ∧ AtMostMaxLen (((ready [0xFFFFFFFF]).payload.length * 32 + 1 - 1) / 1)) ∧
      ¬ (1 ≤ 0 ∧ 0 ≤ 32 ∧ 1 ≤ 8 ∧ 8 ≤ 32 ∧ AtMostMaxLen (ready []).payload.length ∧ DigitsBelow 0 (ready []).payload ∧
        AtMostMaxLen (((ready []).payload.length * 0 + 8 - 1) / 8)) ∧
      ¬ (1 ≤ 8 ∧ 8 ≤ 32 ∧ 1 ≤ 33 ∧ 33 ≤ 32 ∧ AtMostMaxLen (ready []).payload.length ∧ DigitsBelow 8 (ready []).payload ∧
        AtMostMaxLen (((ready []).payload.length * 8 + 33 - 1) / 33)) ∧
      ¬ (1 ≤ 6 ∧ 6 ≤ 32 ∧ 1 ≤ 8 ∧ 8 ≤ 32 ∧ AtMostMaxLen (ready [64]).payload.length ∧ DigitsBelow 6 (ready [64]).payload ∧
        AtMostMaxLen (((ready [64]).payload.length * 6 + 8 - 1) / 8)) := by
  simp only [← digitOver_eq_false]
  decide

/-- Thirty digits up to 63; 29 and 31 digits, a digit of 64. -/
theorem witness_ShufScattersByTable :
    ((ready (63 :: List.range 29)).faultCode = 0#8 ∧ (ready (63 :: List.range 29)).payload.length = 30 ∧
        DigitsBelow 6 (ready (63 :: List.range 29)).payload) ∧
      ¬ ((ready (List.range 29)).payload.length = 30 ∧ DigitsBelow 6 (ready (List.range 29)).payload) ∧
      ¬ ((ready (List.range 31)).payload.length = 30 ∧ DigitsBelow 6 (ready (List.range 31)).payload) ∧
      ¬ ((ready (64 :: List.range 29)).payload.length = 30 ∧ DigitsBelow 6 (ready (64 :: List.range 29)).payload) := by
  simp only [← digitOver_eq_false]
  decide

theorem witness_UnshufGathersByTable :
    ((ready (63 :: List.range 29)).faultCode = 0#8 ∧ (ready (63 :: List.range 29)).payload.length = 30 ∧
        DigitsBelow 6 (ready (63 :: List.range 29)).payload) ∧
      ¬ ((ready (List.range 29)).payload.length = 30 ∧ DigitsBelow 6 (ready (List.range 29)).payload) ∧
      ¬ ((ready (64 :: List.range 29)).payload.length = 30 ∧ DigitsBelow 6 (ready (64 :: List.range 29)).payload) := by
  simp only [← digitOver_eq_false]
  decide

theorem witness_GenSeedPlacesAndPasses :
    (0 < 65536 ∧ 65535 < 65536 ∧ (ready []).faultCode = 0#8 ∧ (ready []).payload = []) ∧
      ((ready [1]).faultCode = 0#8 ∧ (ready [1]).payload ≠ []) := by decide

/-- A Generator whose first cursor stands at 55. -/
def wrappingGenerator : State := withGen (ready []) (entries 1 2147483646 22 5) 55 21

theorem wrappingGenerator_inv : wrappingGenerator.gen.Inv := by intro _; decide +kernel

/-- Either cursor about to wrap; no Generator, a payload. -/
theorem witness_GenNextDrawsLaggedDifference :
    (busyState.faultCode = 0#8 ∧ busyState.gen.valid = true ∧ busyState.payload = [] ∧ busyState.gen.Inv ∧
        35 = (if busyState.gen.i1 = 55 then 1 else busyState.gen.i1 + 1) ∧
        1 = (if busyState.gen.i2 = 55 then 1 else busyState.gen.i2 + 1)) ∧
      (wrappingGenerator.gen.valid = true ∧ wrappingGenerator.payload = [] ∧ wrappingGenerator.gen.Inv ∧
        1 = (if wrappingGenerator.gen.i1 = 55 then 1 else wrappingGenerator.gen.i1 + 1) ∧
        22 = (if wrappingGenerator.gen.i2 = 55 then 1 else wrappingGenerator.gen.i2 + 1)) ∧
      ¬ ((ready []).gen.valid = true ∧ (ready []).payload = []) ∧
      ¬ ((withGen (ready [1]) (entries 1 1 2 2) 0 21).gen.valid = true ∧
        (withGen (ready [1]) (entries 1 1 2 2) 0 21).payload = []) :=
  ⟨⟨rfl, rfl, rfl, busyState_gen_inv, rfl, rfl⟩, ⟨rfl, rfl, wrappingGenerator_inv, rfl, rfl⟩, by decide, by decide⟩

/-- Two bytes and 256 bytes; one byte, a byte of 256. -/
theorem witness_CiphDecRemovesKeystream :
    ((ready [255, 0]).faultCode = 0#8 ∧ 2 ≤ (ready [255, 0]).payload.length ∧ AtMostMaxLen (ready [255, 0]).payload.length ∧
        DigitsBelow 8 (ready [255, 0]).payload) ∧ AtMostMaxLen 256 ∧
      ¬ (2 ≤ (ready [1]).payload.length ∧ AtMostMaxLen (ready [1]).payload.length ∧ DigitsBelow 8 (ready [1]).payload) ∧
      ¬ (2 ≤ (ready [1, 256]).payload.length ∧ AtMostMaxLen (ready [1, 256]).payload.length ∧
        DigitsBelow 8 (ready [1, 256]).payload) := by
  simp only [← digitOver_eq_false]
  decide

theorem witness_CiphEncAppliesKeystream :
    ((ready [0x12, 0x34, 255]).faultCode = 0#8 ∧ 2 ≤ (ready [0x12, 0x34, 255]).payload.length ∧
        AtMostMaxLen (ready [0x12, 0x34, 255]).payload.length ∧ DigitsBelow 8 (ready [0x12, 0x34, 255]).payload) ∧
      ¬ (2 ≤ (ready []).payload.length ∧ AtMostMaxLen (ready []).payload.length ∧ DigitsBelow 8 (ready []).payload) ∧
      ¬ (2 ≤ (ready [256, 1]).payload.length ∧ AtMostMaxLen (ready [256, 1]).payload.length ∧
        DigitsBelow 8 (ready [256, 1]).payload) := by
  simp only [← digitOver_eq_false]
  decide

theorem witness_ChkInitStartsChecksum :
    ((ready []).faultCode = 0#8 ∧ (ready []).payload = []) ∧ (ready [0]).faultCode = 0#8 ∧ (ready [0]).payload ≠ [] := by decide

/-- The largest sum in each phase; the sum that overflows, no Checksum, a payload. -/
theorem witness_ChkUpdTakesByte :
    (255 < 256 ∧ (ready []).faultCode = 0#8 ∧ ((withChk (ready []) 0xFFFFFFFE .hi 1).chk.afterByte 0).sum < 2 ^ 32 ∧
        ((withChk (ready []) 0 .first 0).chk.afterByte 255).sum < 2 ^ 32 ∧
        ((withChk (ready []) 0xFFFFFFFF .lo 0).chk.afterByte 255).sum < 2 ^ 32) ∧
      ((withChk (ready []) 0xFFFFFFFE .hi 1).chk.Inv ∧ (withChk (ready []) 0 .first 0).chk.Inv ∧
        (withChk (ready []) 0xFFFFFFFF .lo 0).chk.Inv ∧ busyState.chk.Inv ∧ (ready []).chk.Inv) ∧
      ¬ (busyState.chk.valid = true ∧ busyState.payload = [] ∧ (busyState.chk.afterByte 0).sum < 2 ^ 32) ∧
      ¬ ((ready []).chk.valid = true ∧ (ready []).payload = [] ∧ ((ready []).chk.afterByte 0).sum < 2 ^ 32) ∧
      ¬ ((withChk (ready [1]) 0 .first 0).chk.valid = true ∧ (withChk (ready [1]) 0 .first 0).payload = [] ∧
        ((withChk (ready [1]) 0 .first 0).chk.afterByte 0).sum < 2 ^ 32) :=
  ⟨by decide, ⟨fun _ => by decide, fun _ => by decide, fun _ => by decide, busyState_chk_inv, fun _ => by decide⟩, by decide, by decide, by decide⟩

/-- A held byte and none held; no Checksum, a payload, no byte taken. -/
theorem witness_ChkFinReturnsChecksum :
    (busyState.faultCode = 0#8 ∧ busyState.chk.valid = true ∧ busyState.payload = [] ∧ busyState.chk.ph ≠ .first) ∧
      ((withChk (ready []) 0 .lo 0).chk.valid = true ∧ (withChk (ready []) 0 .lo 0).chk.ph ≠ .first) ∧
      ¬ ((ready []).chk.valid = true ∧ (ready []).payload = [] ∧ (ready []).chk.ph ≠ .first) ∧
      ¬ ((withChk (ready [1]) 0 .lo 0).chk.valid = true ∧ (withChk (ready [1]) 0 .lo 0).payload = [] ∧
        (withChk (ready [1]) 0 .lo 0).chk.ph ≠ .first) ∧
      ¬ ((withChk (ready []) 0 .first 0).chk.valid = true ∧ (withChk (ready []) 0 .first 0).payload = [] ∧
        (withChk (ready []) 0 .first 0).chk.ph ≠ .first) := by decide

/-- One byte and two; no byte, a byte of 256. -/
theorem witness_ChksumIsFoldedComplementedSum :
    ((ready [0]).faultCode = 0#8 ∧ 1 ≤ (ready [0]).payload.length ∧ AtMostMaxLen (ready [0]).payload.length ∧
        DigitsBelow 8 (ready [0]).payload) ∧
      (1 ≤ (ready [255, 255]).payload.length ∧ DigitsBelow 8 (ready [255, 255]).payload) ∧
      ¬ (1 ≤ (ready []).payload.length ∧ AtMostMaxLen (ready []).payload.length ∧ DigitsBelow 8 (ready []).payload) ∧
      ¬ (1 ≤ (ready [256]).payload.length ∧ AtMostMaxLen (ready [256]).payload.length ∧
        DigitsBelow 8 (ready [256]).payload) := by
  simp only [← digitOver_eq_false]
  decide

theorem witness_CrcInitStartsCrc :
    ((ready []).faultCode = 0#8 ∧ (ready []).payload = []) ∧ (ready [0]).faultCode = 0#8 ∧ (ready [0]).payload ≠ [] := by decide

theorem witness_CrcUpdTakesByte :
    (0 < 256 ∧ 255 < 256 ∧ busyState.faultCode = 0#8 ∧ busyState.crc.valid = true ∧ busyState.payload = []) ∧
      ¬ ((ready []).crc.valid = true ∧ (ready []).payload = []) ∧
      ¬ ((withCrc (ready [1]) 0#32).crc.valid = true ∧ (withCrc (ready [1]) 0#32).payload = []) := by decide

theorem witness_CrcFinReturnsCrc :
    (busyState.faultCode = 0#8 ∧ busyState.crc.valid = true ∧ busyState.payload = []) ∧
      ¬ ((ready []).crc.valid = true ∧ (ready []).payload = []) ∧
      ¬ ((withCrc (ready [1]) 0#32).crc.valid = true ∧ (withCrc (ready [1]) 0#32).payload = []) := by decide

/-- The empty sequence and the largest byte; a byte of 256. -/
theorem witness_Crc32IsReflectedCrc :
    ((ready []).faultCode = 0#8 ∧ AtMostMaxLen (ready []).payload.length ∧ DigitsBelow 8 (ready []).payload) ∧
      DigitsBelow 8 (ready [255]).payload ∧
      ¬ (AtMostMaxLen (ready [256]).payload.length ∧ DigitsBelow 8 (ready [256]).payload) := by
  simp only [← digitOver_eq_false]
  decide

theorem witness_ReviveIsLowThirtyBits :
    ((ready [0x61]).faultCode = 0#8 ∧ AtMostMaxLen (ready [0x61]).payload.length ∧ DigitsBelow 8 (ready [0x61]).payload) ∧
      ¬ (AtMostMaxLen (ready [256]).payload.length ∧ DigitsBelow 8 (ready [256]).payload) := by
  simp only [← digitOver_eq_false]
  decide

theorem witness_StatWithPayloadIsRefused :
    ((ready [0]).faultCode = 0#8 ∧ (ready [0]).payload ≠ []) ∧
      (({ faultedState with payload := [0#32] } : State).faultCode ≠ 0#8 ∧
        ({ faultedState with payload := [0#32] } : State).payload ≠ []) := by decide

/-! ### Witnesses: laws of the units -/

/-- Reads of 0 and 32 bits, and a read past the end. -/
theorem witness_ReadsCutTheSourceBitString :
    State.reset.faultCode = 0#8 ∧ 1 ≤ 6 ∧ 6 ≤ 32 ∧ AtMostMaxLen (words [0x2B, 0x15]).length ∧
      DigitsBelow 6 (words [0x2B, 0x15]) ∧ (∀ m ∈ [0, 8, 32], m ≤ 32) ∧ 32 ≤ 32 := by
  simp only [← digitOver_eq_false]
  decide

/-- Exactly as many bits consumed as there are, and one fewer. -/
theorem witness_RemainingComparesBitCounts :
    State.reset.faultCode = 0#8 ∧ 1 ≤ 6 ∧ 6 ≤ 32 ∧ AtMostMaxLen (words [0x2B, 0x15]).length ∧
      DigitsBelow 6 (words [0x2B, 0x15]) ∧ (∀ m ∈ [4, 8], m ≤ 32) ∧ (∀ m ∈ [4, 7], m ≤ 32) ∧
      ¬ [4, 8].sum < (words [0x2B, 0x15]).length * 6 ∧ [4, 7].sum < (words [0x2B, 0x15]).length * 6 := by
  simp only [← digitOver_eq_false]
  decide

/-- A write of no bits, of 32, and of fewer bits than the value has. -/
theorem witness_WriterCutsTheWrittenBits :
    State.reset.faultCode = 0#8 ∧ 1 ≤ 6 ∧ 6 ≤ 32 ∧
      (∀ x ∈ [(0, 5), (32, 0xFFFFFFFF), (3, 0xFF)], x.1 ≤ 32 ∧ x.2 < 2 ^ 32) ∧
      AtMostMaxLen ((writtenBits [(0, 5), (32, 0xFFFFFFFF), (3, 0xFF)] + 6 - 1) / 6) := by decide

theorem witness_ReaderReturnsWrittenValues :
    State.reset.faultCode = 0#8 ∧ 1 ≤ 32 ∧ 32 ≤ 32 ∧
      (∀ x ∈ [(9, 0x1A5), (32, 0xFFFFFFFF)], x.1 ≤ 32 ∧ x.2 < 2 ^ 32) ∧
      AtMostMaxLen ((writtenBits [(9, 0x1A5), (32, 0xFFFFFFFF)] + 32 - 1) / 32) := by decide

/-- V15 (e), (f): a round trip that gains a digit. -/
theorem witness_BitpackRoundTripAppendsZeros :
    (ready [0x3F]).faultCode = 0#8 ∧ 1 ≤ 6 ∧ 6 ≤ 32 ∧ 1 ≤ 8 ∧ 8 ≤ 32 ∧ AtMostMaxLen (ready [0x3F]).payload.length ∧
      DigitsBelow 6 (ready [0x3F]).payload ∧ AtMostMaxLen (((ready [0x3F]).payload.length * 6 + 8 - 1) / 8) ∧
      AtMostMaxLen ((((ready [0x3F]).payload.length * 6 + 8 - 1) / 8 * 8 + 6 - 1) / 6) ∧
      (ready [0x3F]).payload = words [0x3F] := by
  simp only [← digitOver_eq_false]
  decide

theorem witness_ShufAndUnshufAreInverse :
    (ready (63 :: List.range 29)).faultCode = 0#8 ∧ (ready (63 :: List.range 29)).payload.length = 30 ∧
      DigitsBelow 6 (ready (63 :: List.range 29)).payload := by
  simp only [← digitOver_eq_false]
  decide

/-- The ends of the seeds, and draws on both sides of the wraps. -/
theorem witness_GeneratorCursorsWalkTheRing :
    State.reset.faultCode = 0#8 ∧ 0 < 65536 ∧ 65535 < 65536 ∧ 1 ≤ 1 ∧ 1 ≤ 35 ∧ 1 ≤ 56 := by decide

theorem witness_GeneratorOutputsFollowRecurrence :
    0 < 65536 ∧ 65535 < 65536 ∧ 1 ≤ 34 ∧ 1 ≤ 35 ∧ 1 ≤ 55 ∧ 1 ≤ 56 := by decide

/-- Three bytes (all eight bits remain), and four bytes with a last byte of six bits. -/
theorem witness_CipherDirectionsAreInverse :
    ((ready [1, 2, 255]).faultCode = 0#8 ∧ 3 ≤ (ready [1, 2, 255]).payload.length ∧
        AtMostMaxLen (ready [1, 2, 255]).payload.length ∧ DigitsBelow 8 (ready [1, 2, 255]).payload ∧
        ((ready [1, 2, 255]).payload.getLastD 0#32).toNat < 2 ^ (8 - (ready [1, 2, 255]).payload.length * 8 % 6)) ∧
      ((ready [1, 2, 255, 63]).payload.getLastD 0#32).toNat < 2 ^ (8 - (ready [1, 2, 255, 63]).payload.length * 8 % 6) ∧
      ¬ ((ready [1, 2, 255, 64]).payload.getLastD 0#32).toNat < 2 ^ (8 - (ready [1, 2, 255, 64]).payload.length * 8 % 6) := by
  simp only [← digitOver_eq_false]
  decide

theorem witness_StreamingChecksumEqualsWhole :
    State.reset.faultCode = 0#8 ∧ 1 ≤ [255].length ∧ [255, 0].length ≤ 65536 ∧ (∀ b ∈ [255, 0], b < 256) ∧
      AtMostMaxLen [255, 0].length := by decide

theorem witness_StreamingCrcEqualsWhole :
    State.reset.faultCode = 0#8 ∧ (∀ b ∈ [0, 255], b < 256) ∧ AtMostMaxLen [0, 255].length ∧
      AtMostMaxLen ([] : List Nat).length := by decide

theorem witness_CrcTableStepEqualsBitwiseStep : 0 < 256 ∧ 255 < 256 := by decide

theorem witness_WholeSequenceOperationsIgnoreUnits :
    (Instr.bitpack 6 8).wholeSequence = true ∧ Instr.revive.wholeSequence = true ∧ Instr.shuf.wholeSequence = true := by decide

theorem witness_AlphabetIndexAndTextAreInverse : indexOf 'd' 'S' = .ok 63 := by decide

/-- The example password of V6. -/
def exampleText : List Char := "Pf8sPs4fPhXe3f7h1h2h5s8w3h9s3fXh4wMw4s6w8w9w6e2f8h9f1h2s1w8h".toList

theorem witness_PasswordRoundTrip :
    parseText exampleText = .ok [9, 59, 61, 3, 22, 51, 2, 19, 13, 14, 56, 33, 15, 60, 2, 25, 29, 36, 55, 31, 33, 34, 44,
      1, 20, 8, 13, 53, 26, 20] ∧ State.reset.faultCode = 0#8 := by decide

/-- A text that parses, one that is too short, and one of sixty characters with `Xs` in it. -/
theorem witness_PipelineMacrosNeverFaultTheBlock :
    (parseText exampleText).isOk = true ∧ State.reset.faultCode = 0#8 ∧
      parseText ['1', 'f'] = .error .invalidLength ∧
      parseText ('X' :: 's' :: exampleText.drop 2) = .error .invalidSymbol := by decide +kernel

/-- Each clause on the forms of P7: the first and the last key of the rescue group missing, `revive` missing, the first
and the last rescue key on a revival record. -/
theorem witness_InterchangeFormKeepsTheRecord :
    Record.ofFlat recordP7.toFlat = some recordP7 ∧
      (numberAt (recordP7.toFlat.filter fun e => e.1 ≠ .dungeon) .type = some 0 ∧ .dungeon ∈ FlatKey.revive :: rescueKeys ∧
        (recordP7.toFlat.filter fun e => e.1 ≠ .dungeon).lookup .dungeon = none) ∧
      (numberAt (recordP7.toFlat.filter fun e => e.1 ≠ .revive) .type = some 0 ∧ .revive ∈ FlatKey.revive :: rescueKeys ∧
        (recordP7.toFlat.filter fun e => e.1 ≠ .revive).lookup .revive = none) ∧
      (numberAt (recordP7.toRevival.toFlat.filter fun e => e.1 ≠ .revive) .type = some 1 ∧
        (recordP7.toRevival.toFlat.filter fun e => e.1 ≠ .revive).lookup .revive = none) ∧
      (numberAt ((.dungeon, .number 1) :: recordP7.toRevival.toFlat) .type = some 1 ∧ .dungeon ∈ rescueKeys ∧
        ((.dungeon, .number 1) :: recordP7.toRevival.toFlat : FlatRecord).lookup .dungeon = some (.number 1)) ∧
      (numberAt ((.unk2, .codes []) :: recordP7.toRevival.toFlat) .type = some 1 ∧ .unk2 ∈ rescueKeys ∧
        ((.unk2, .codes []) :: recordP7.toRevival.toFlat : FlatRecord).lookup .unk2 = some (.codes [])) := by decide

end Tests
end Sys2Proof
end

section
/-!
PROOFS. The block's invariant: what the decoder admits, what each unit's operations keep, and the step
(spec/10_state.md sections 2 to 8).
-/

namespace Sys2Proof

/-! ## Legal command words hold operands that fit their fields (R81, R85, R87) -/

theorem fieldA_lt (w : Word) : fieldA w < 256 := Nat.mod_lt _ (by decide)
theorem fieldB_lt (w : Word) : fieldB w < 256 := Nat.mod_lt _ (by decide)
theorem fieldC_lt (w : Word) : fieldC w < 256 := Nat.mod_lt _ (by decide)

/-- A format accepts its operation exactly when its unused fields are zero. -/
theorem whenZero_eq_ok {mbz : Bool} {w : Word} {i j : Instr} : whenZero mbz w i = .ok j ↔ mbz = true ∧ i = j := by
  cases mbz <;> simp [whenZero]

section Formats

variable {w : Word} {i : Instr}

theorem formatZ_wellFormed {j : Instr} (h : formatZ w j = .ok i) (hj : j.WellFormed) : i.WellFormed :=
  (whenZero_eq_ok.mp h).2 ▸ hj

theorem formatA_wellFormed {f : Nat → Instr} (h : formatA w f = .ok i)
    (hf : ∀ a, FitsByteField a → (f a).WellFormed) : i.WellFormed :=
  (whenZero_eq_ok.mp h).2 ▸ hf _ (fieldA_lt w)

theorem formatAB_wellFormed {f : Nat → Nat → Instr} (h : formatAB w f = .ok i)
    (hf : ∀ a b, FitsByteField a → FitsByteField b → (f a b).WellFormed) : i.WellFormed :=
  (whenZero_eq_ok.mp h).2 ▸ hf _ _ (fieldA_lt w) (fieldB_lt w)

theorem formatI16_wellFormed {f : Nat → Instr} (h : formatI16 w f = .ok i)
    (hf : ∀ v, FitsSeedField v → (f v).WellFormed) : i.WellFormed := by
  have hb := fieldB_lt w
  have hc := fieldC_lt w
  exact (whenZero_eq_ok.mp h).2 ▸ hf _ (by simp only [FitsSeedField]; omega)

theorem formatI8_wellFormed {f : Nat → Instr} (h : formatI8 w f = .ok i)
    (hf : ∀ v, FitsByteField v → (f v).WellFormed) : i.WellFormed :=
  (whenZero_eq_ok.mp h).2 ▸ hf _ (fieldC_lt w)

/-- What the decoder reads is well formed, row by row of the operation map. -/
theorem decode_wellFormed (h : decode w = .ok i) : i.WellFormed := by
  unfold decode at h
  split at h
  case h_1 | h_4 | h_7 | h_9 | h_10 | h_12 | h_13 | h_14 | h_15 | h_17 | h_18 | h_19 | h_21 | h_22 | h_23 =>
    exact formatZ_wellFormed h rfl
  case h_2 | h_3 | h_5 | h_6 => exact formatA_wellFormed h fun _ ha => decide_eq_true ha
  case h_8 =>
    exact formatAB_wellFormed h fun _ _ ha hb => Bool.and_eq_true_iff.mpr ⟨decide_eq_true ha, decide_eq_true hb⟩
  case h_11 => exact formatI16_wellFormed h fun _ hv => decide_eq_true hv
  case h_16 | h_20 => exact formatI8_wellFormed h fun _ hv => decide_eq_true hv
  case h_24 => exact absurd h (by simp)

end Formats

namespace Machine

/-! ## Arithmetic of bits held and bits taken -/

/-- `m` bits above `k` bits are `k + m` bits. -/
theorem add_two_pow_mul_lt {a b k m : Nat} (ha : a < 2 ^ k) (hb : b < 2 ^ m) : a + 2 ^ k * b < 2 ^ (k + m) := by
  calc a + 2 ^ k * b < 2 ^ k * (b + 1) := by rw [Nat.mul_succ]; omega
    _ ≤ 2 ^ k * 2 ^ m := Nat.mul_le_mul_left _ hb
    _ = 2 ^ (k + m) := (pow_add 2 k m).symm

/-- Taking `n` of `m` bits leaves `m - n`, and none where `n` is more. -/
theorem div_two_pow_lt {a m : Nat} (n : Nat) (ha : a < 2 ^ m) : a / 2 ^ n < 2 ^ (m - n) := by
  apply Nat.div_lt_of_lt_mul
  calc a < 2 ^ m := ha
    _ ≤ 2 ^ (n + (m - n)) := Nat.pow_le_pow_right (by decide) (by omega)
    _ = 2 ^ n * 2 ^ (m - n) := pow_add ..

theorem toNat_toWord_lt {v k : Nat} (h : v < k) : (toWord v).toNat < k := by
  rw [toWord, BitVec.toNat_ofNat]
  exact (Nat.mod_le _ _).trans_lt h

/-! ## The units' operations keep the units' invariants -/

/-! ### The Reader (R22, R23) -/

theorem Reader.load_inv {sw : Nat} {ds : List Word} (hsw : 1 ≤ sw ∧ sw ≤ 32) (hlen : AtMostMaxLen ds.length)
    (hds : DigitsBelow sw ds) : (Reader.load sw ds).Inv :=
  fun _ => ⟨hsw.1, hsw.2, rfl, hlen, hds, Nat.zero_le _, Nat.one_pos, hsw.1⟩

/-- A read takes no digit that is not there. -/
theorem Reader.digitsTaken_le (r : Reader) (n : Nat) : r.digitsTaken n ≤ r.len - r.pos := by
  unfold Reader.digitsTaken
  split <;> omega

/-- A read takes no digit more than it needs (R23). -/
theorem Reader.cnt_after_read_lt {r : Reader} (hcnt : r.cnt < r.sw) (n : Nat) :
    r.cnt + r.digitsTaken n * r.sw - n < r.sw := by
  unfold Reader.digitsTaken
  split
  · omega
  · have hceil : ceilDiv (n - r.cnt) r.sw * r.sw ≤ n - r.cnt + r.sw - 1 := Nat.div_mul_le_self _ _
    have hmin := Nat.mul_le_mul_right r.sw (Nat.min_le_right (r.len - r.pos) (ceilDiv (n - r.cnt) r.sw))
    omega

theorem Reader.buffered_lt {r : Reader} (hsw : 1 ≤ r.sw) (hds : DigitsBelow r.sw r.src) (hacc : r.acc < 2 ^ r.cnt)
    (k : Nat) : r.buffered k < 2 ^ (r.cnt + k * r.sw) := by
  refine add_two_pow_mul_lt hacc ?_
  set digits := ((r.src.drop r.pos).take k).map BitVec.toNat with hdigits
  have hbelow : ∀ d ∈ digits, d < 2 ^ r.sw := by
    intro d hd
    obtain ⟨x, hx, rfl⟩ := List.mem_map.mp hd
    exact hds x (List.mem_of_mem_drop (List.mem_of_mem_take hx))
  have hlen : digits.length ≤ k := by simp [hdigits]
  calc Nat.ofDigits (2 ^ r.sw) digits
      < (2 ^ r.sw) ^ digits.length := Nat.ofDigits_lt_base_pow_length (Nat.one_lt_two_pow (by omega)) hbelow
    _ ≤ (2 ^ r.sw) ^ k := Nat.pow_le_pow_right (Nat.two_pow_pos _) hlen
    _ = 2 ^ (k * r.sw) := by rw [← pow_mul, Nat.mul_comm]

theorem Reader.read_inv {r : Reader} (h : r.Inv) (n : Nat) : (r.read n).1.Inv := by
  intro hvalid
  have hv : r.valid = true := (r.read_frame n).1 ▸ hvalid
  obtain ⟨hsw, hsw32, hlen, hfits, hds, hpos, hacc, hcnt⟩ := h hv
  have htaken := r.digitsTaken_le n
  rw [Reader.read_eq hv h n]
  exact ⟨hsw, hsw32, hlen, hfits, hds, by simp only; omega, div_two_pow_lt n (Reader.buffered_lt hsw hds hacc _),
    Reader.cnt_after_read_lt hcnt n⟩

/-! ### The Writer (R24, R25) -/

theorem Writer.init_inv {dw : Nat} (hdw : 1 ≤ dw ∧ dw ≤ 32) : (Writer.init dw).Inv :=
  fun _ => ⟨hdw.1, hdw.2, Config.exceedsMaxLen_of_le (Nat.zero_le _), nofun, Nat.one_pos, hdw.1⟩

/-- What is left of `m` bits after all whole digits are flushed. -/
theorem div_whole_digits_lt {a m : Nat} (dw : Nat) (ha : a < 2 ^ m) : a / 2 ^ (m / dw * dw) < 2 ^ (m % dw) := by
  have hrest : m - m / dw * dw = m % dw := by
    have := Nat.div_add_mod' m dw
    omega
  exact hrest ▸ div_two_pow_lt _ ha

/-- A digit that is flushed fits the dest width. -/
theorem digitsBelow_map_cutDigit (w v : Nat) (ks : List Nat) :
    DigitsBelow w (ks.map fun k => toWord (cutDigit w v k)) := by
  intro d hd
  obtain ⟨k, -, rfl⟩ := List.mem_map.mp hd
  exact toNat_toWord_lt (Nat.mod_lt _ (Nat.two_pow_pos w))

theorem Writer.write_inv {w : Writer} (h : w.Inv) {n : Nat} (hfits : AtMostMaxLen (w.lengthAfter n)) (v : Nat) :
    (w.write n v).Inv := by
  intro hvalid
  have hv : w.valid = true := (w.write_frame n v).1 ▸ hvalid
  obtain ⟨hdw, hdw32, -, hout, hacc, -⟩ := h hv
  have hbuf : w.buffered n v < 2 ^ (w.cnt + n) := add_two_pow_mul_lt hacc (Nat.mod_lt _ (Nat.two_pow_pos n))
  rw [Writer.write_eq hv h n v]
  refine ⟨hdw, hdw32, ?_, ?_, div_whole_digits_lt _ hbuf, Nat.mod_lt _ hdw⟩
  · simpa [Writer.lengthAfter] using hfits
  · exact List.forall_mem_append.mpr ⟨hout, digitsBelow_map_cutDigit _ _ _⟩

/-! ### The Generator (R26, R27, R157, R159) -/

/-- The part of the Generator's invariant that is about `GEN.S`. -/
def EntriesInv (v : Vector Nat 56) : Prop := entryOf v 0 = 0 ∧ ∀ i, i ≤ 55 → entryOf v i < Config.big

theorem EntriesInv.zeros : EntriesInv (Vector.replicate 56 0) := by
  have hzero (i : Nat) : entryOf (Vector.replicate 56 0) i = 0 := by
    simp only [entryOf, Vector.toList_replicate, List.getD_eq_getElem?_getD, List.getElem?_replicate]
    split <;> rfl
  exact ⟨hzero 0, fun i _ => (hzero i).trans_lt (by decide)⟩

/-- The rule for every store of the seed loops and of a draw: entry 0 is never the target. -/
theorem EntriesInv.withEntry {v : Vector Nat 56} (h : EntriesInv v) {i x : Nat} (hi : 1 ≤ i ∧ i ≤ 55)
    (hx : x < Config.big) : EntriesInv (withEntry v i x) := by
  obtain ⟨hzero, hbelow⟩ := h
  have hget := entryOf_withEntry v x (hi := (by omega : i < 56))
  refine ⟨by rw [hget, if_neg (by omega), hzero], fun j hj => ?_⟩
  rw [hget]
  split
  · exact hx
  · exact hbelow j hj

theorem EntriesInv.pass {v : Vector Nat 56} (h : EntriesInv v) : EntriesInv (pass v) := by
  refine List.foldlRecOn (motive := EntriesInv) _ _ h fun a ha i hi => ?_
  have hbelow := ha.2
  have hi : 1 ≤ i ∧ i ≤ 55 := by rw [List.mem_range'_1] at hi; omega
  have hn : neighbour i ≤ 55 := by unfold neighbour; omega
  exact ha.withEntry hi (lagSub_lt (hbelow i hi.2) (hbelow _ hn))

/-- What the placement loop keeps: the array and the two running values are in range. -/
structure Placement.Inv (p : Placement) : Prop where
  s : EntriesInv p.s
  mj : p.mj < Config.big
  running : p.running < Config.big

theorem Placement.Inv.place {p : Placement} (h : p.Inv) {i : Nat} (hi : 1 ≤ i ∧ i ≤ 54) : (p.place i).Inv where
  s := h.s.withEntry (by omega) h.running
  mj := h.running
  running := lagSub_lt h.mj h.running

theorem entriesInv_placed (seed : Nat) : EntriesInv (placed seed) := by
  have hbase : Config.seedBase - seed < Config.big := (Nat.sub_le _ _).trans_lt (by decide)
  have hone : 1 < Config.big := by decide
  refine (List.foldlRecOn (motive := Placement.Inv) _ _
    ⟨EntriesInv.zeros.withEntry (by decide) hbase, hbase, hone⟩ fun p hp i hi => ?_).s
  exact hp.place (by rw [List.mem_range'_1] at hi; omega)

theorem Generator.seeded_inv (seed : Nat) : (Generator.seeded seed).Inv := by
  intro _
  have hs : EntriesInv (Generator.seeded seed).s := (entriesInv_placed seed).pass.pass.pass.pass
  have hcursors : 0 ≤ 55 ∧ 1 ≤ 21 ∧ 21 ≤ 55 ∧ (21 = 0 + 21 ∨ 21 + 34 = 0) := by decide
  exact ⟨hs.1, hs.2, hcursors⟩

theorem advance_range {i : Nat} (h : i ≤ 55) : 1 ≤ advance i ∧ advance i ≤ 55 := by
  unfold advance
  split <;> omega

/-- The cursors stay 21 apart on the ring of 55 (R157). -/
theorem advance_apart {i j : Nat} (hi : i ≤ 55) (hj : j ≤ 55) (h : j = i + 21 ∨ j + 34 = i) :
    advance j = advance i + 21 ∨ advance j + 34 = advance i := by
  unfold advance
  split <;> split <;> omega

theorem Generator.draw_inv {g : Generator} (h : g.Inv) : g.draw.1.Inv := by
  intro hvalid
  obtain ⟨hzero, hbelow, hi1, -, hi2, hapart⟩ := h hvalid
  have hnext1 := advance_range hi1
  have hnext2 := advance_range hi2
  have hs : EntriesInv g.draw.1.s :=
    EntriesInv.withEntry ⟨hzero, hbelow⟩ hnext1 (lagSub_lt (hbelow _ hnext1.2) (hbelow _ hnext2.2))
  exact ⟨hs.1, hs.2, hnext1.2, hnext2.1, hnext2.2, advance_apart hi1 hi2 hapart⟩

/-! ### The Checksum (R28) -/

theorem Checksum.init_inv : Checksum.init.Inv := fun _ => by decide

theorem Checksum.take_inv {c : Checksum} (h : c.Inv) {byte : Nat} (hbyte : FitsByteField byte)
    (hfits : c.wouldOverflow byte = false) : (c.take byte).Inv := by
  intro hvalid
  obtain ⟨-, hpend⟩ := h (c.take_valid byte ▸ hvalid)
  refine ⟨by simpa [Checksum.wouldOverflow] using hfits, ?_⟩
  unfold Checksum.take
  split
  · exact hpend
  · exact hbyte
  · exact hpend

/-! ### Units that are not valid -/

theorem Reader.unspecified_inv (k : Nat) : (Reader.unspecified k).Inv := nofun
theorem Writer.unspecified_inv (k : Nat) : (Writer.unspecified k).Inv := nofun
theorem Generator.unspecified_inv (k : Nat) : (Generator.unspecified k).Inv := nofun
theorem Checksum.unspecified_inv (k : Nat) : (Checksum.unspecified k).Inv := nofun

/-! ## The block's invariant -/

section Invariant

variable {s t : State}

theorem State.ResponsesInv.respond (h : s.ResponsesInv) {st : Byte} {ws : List Word} (hst : st.toNat ≤ 7)
    (hws : st ≠ 0#8 → ws = []) : (s.respond st ws).ResponsesInv :=
  List.forall_mem_append.mpr ⟨h, List.forall_mem_singleton.mpr ⟨hst, hws⟩⟩

theorem State.Inv.answered (h : s.Inv) (ws : List Word) : (s.answered ws).Inv :=
  { h with responses := h.responses.respond (Nat.zero_le 7) (absurd rfl) }

theorem State.Inv.turnedAway (h : s.Inv) {st : Byte} (hst : st.toNat ≤ 7) : (s.turnedAway st).Inv :=
  { h with responses := h.responses.respond hst fun _ => rfl }

theorem FaultCode.code_ne_zero (c : FaultCode) : c.code ≠ 0#8 := by
  cases c <;> decide

theorem State.Inv.faultTaken (h : s.Inv) (c : FaultCode) : (s.faultTaken c.code).Inv :=
  have hle := c.code_range.2
  { h with
    record := ⟨hle, fun hzero => absurd hzero c.code_ne_zero⟩
    responses := h.responses.respond (Nat.le_succ_of_le hle) fun _ => rfl }

theorem State.Inv.setRd (h : s.Inv) {u : Reader} (hu : u.Inv) : (s.setRd u).Inv := { h with rd := hu }
theorem State.Inv.setWr (h : s.Inv) {u : Writer} (hu : u.Inv) : (s.setWr u).Inv := { h with wr := hu }
theorem State.Inv.setGen (h : s.Inv) {u : Generator} (hu : u.Inv) : (s.setGen u).Inv := { h with gen := hu }
theorem State.Inv.setChk (h : s.Inv) {u : Checksum} (hu : u.Inv) : (s.setChk u).Inv := { h with chk := hu }
theorem State.Inv.setCrc (h : s.Inv) (u : Crc) : (s.setCrc u).Inv := { h with }
theorem State.Inv.closeWr (h : s.Inv) : s.closeWr.Inv := { h with wr := Writer.unspecified_inv _ }
theorem State.Inv.closeChk (h : s.Inv) : s.closeChk.Inv := { h with chk := Checksum.unspecified_inv _ }
theorem State.Inv.closeCrc (h : s.Inv) : s.closeCrc.Inv := { h with }
theorem State.Inv.withInbox (h : s.Inv) (rest : List HostMove) : State.Inv { s with inbox := rest } := { h with }

theorem State.Inv.latched (h : s.Inv) (w : Word) (p : List Word) (rest : List HostMove) : (s.latched w p rest).Inv :=
  { h with }

theorem State.Inv.resetBlock (h : s.Inv) : s.resetBlock.Inv where
  rd := Reader.unspecified_inv _
  wr := Writer.unspecified_inv _
  gen := Generator.unspecified_inv _
  chk := Checksum.unspecified_inv _
  record := ⟨Nat.zero_le 6, fun _ => rfl⟩
  responses := h.responses

/-- An answer whose next state, if it is one, satisfies the invariant. -/
def KeepsInv (a : StepResult) : Prop := ∀ t, a = .next t → t.Inv

theorem KeepsInv.next (h : t.Inv) : KeepsInv (.next t) := by
  rintro _ ⟨⟩
  exact h

/-- An operation keeps the invariant when its effect does wherever its checks pass. -/
theorem operate_keepsInv (h : s.Inv) {cs : List Check} {d : State} {ws : List Word}
    (hd : (∀ c ∈ cs, c.1 = false) → d.Inv) : KeepsInv (operate s cs d ws) := by
  rcases operate_cases s cs d ws with ⟨-, hs⟩ | ⟨-, c, -, hs⟩ | ⟨-, hc, hs⟩ <;> rw [hs]
  · exact .next (h.turnedAway (by decide))
  · exact .next (h.faultTaken c)
  · exact .next ((hd (firstFailure_eq_none.mp hc)).answered ws)

theorem execStat_keepsInv (h : s.Inv) : KeepsInv (execStat s) := by
  refine .next ?_
  split
  · split
    · exact h.turnedAway (by decide)
    · exact h.faultTaken .badLength
  · exact h.answered _

theorem execRdLoad_keepsInv (h : s.Inv) (sw : Nat) : KeepsInv (execRdLoad sw s) := by
  refine operate_keepsInv h fun hc => ?_
  simp only [List.forall_mem_cons, widthBad_eq_false, digitOver_eq_false] at hc
  obtain ⟨hsw, hlen, hds, -⟩ := hc
  exact h.setRd (Reader.load_inv hsw hlen hds)

theorem execWrInit_keepsInv (h : s.Inv) (dw : Nat) : KeepsInv (execWrInit dw s) := by
  refine operate_keepsInv h fun hc => ?_
  simp only [List.forall_mem_cons, widthBad_eq_false] at hc
  obtain ⟨hdw, -⟩ := hc
  exact h.setWr (Writer.init_inv hdw)

theorem execWrWrite_keepsInv (h : s.Inv) (n : Nat) : KeepsInv (execWrWrite n s) := by
  refine operate_keepsInv h fun hc => ?_
  simp only [List.forall_mem_cons] at hc
  obtain ⟨-, -, -, hfits, -⟩ := hc
  exact h.setWr (Writer.write_inv h.wr hfits _)

theorem execChkUpd_keepsInv (h : s.Inv) {byte : Nat} (hbyte : FitsByteField byte) : KeepsInv (execChkUpd byte s) := by
  refine operate_keepsInv h fun hc => ?_
  simp only [List.forall_mem_cons] at hc
  obtain ⟨-, -, hfits, -⟩ := hc
  exact h.setChk (Checksum.take_inv h.chk hbyte hfits)

/-- Every well-formed operation keeps the invariant; only `CHK.UPD` needs its operand to fit the field, since it holds
the byte in `CHK.PEND`. -/
theorem exec_keepsInv {i : Instr} (hi : i.WellFormed) (h : s.Inv) : KeepsInv (exec i s) := by
  cases i
  case stat => exact execStat_keepsInv h
  case rdLoad sw => exact execRdLoad_keepsInv h sw
  case rdRead n => exact operate_keepsInv h fun _ => h.setRd (Reader.read_inv h.rd n)
  case wrInit dw => exact execWrInit_keepsInv h dw
  case wrWrite n => exact execWrWrite_keepsInv h n
  case wrFin => exact operate_keepsInv h fun _ => h.closeWr
  case genSeed seed => exact operate_keepsInv h fun _ => h.setGen (Generator.seeded_inv seed)
  case genNext => exact operate_keepsInv h fun _ => h.setGen (Generator.draw_inv h.gen)
  case chkInit => exact operate_keepsInv h fun _ => h.setChk Checksum.init_inv
  case chkUpd byte => exact execChkUpd_keepsInv h (of_decide_eq_true hi)
  case chkFin => exact operate_keepsInv h fun _ => h.closeChk
  case crcInit | crcUpd => exact operate_keepsInv h fun _ => h.setCrc _
  case crcFin => exact operate_keepsInv h fun _ => h.closeCrc
  case rdRem | bitpack | shuf | unshuf | ciphDec | ciphEnc | chksum | crc32 | revive =>
    exact operate_keepsInv h fun _ => h

theorem step_keepsInv (h : s.Inv) : KeepsInv (step s) := by
  rcases hs : s.inbox with _ | ⟨⟨w, p⟩ | _, rest⟩
  case nil => exact step_of_idle hs ▸ .next h
  case cons.reset => exact step_of_reset hs ▸ .next (h.withInbox rest).resetBlock
  case cons.transaction =>
    have hl := h.latched w p rest
    rcases hd : decode w with e | i
    · exact step_of_illegal hs hd ▸ operate_keepsInv hl fun _ => hl
    · exact step_of_legal hs hd ▸ exec_keepsInv (decode_wellFormed hd) hl

end Invariant

/-- Settles O15: every effect keeps its unit's invariant, and every answer those of the record and the responses. -/
theorem stepKeepsInvariant : Obligations.StepKeepsInvariant :=
  fun _ t h hs => step_keepsInv h t hs

end Machine
end Sys2Proof
end

section
/-!
PROOFS. The statements on the reset state, on the whole-sequence operations and on unspecified registers
(spec/10_state.md sections 10 and 11).
-/

namespace Sys2Proof
namespace Machine

/-! ## The reset state (spec/10_state.md section 11) -/

/-- Settles O13: each value stands in the definition of the reset state. -/
theorem resetStateHasSpecifiedValues : Obligations.ResetStateHasSpecifiedValues :=
  ⟨rfl, rfl, rfl, rfl, rfl, rfl, rfl⟩

/-! ## Whole-sequence operations (R36, R178) -/

/-- An operation with no effect but its response, whose checks and result do not come from the units, goes the same way
whatever the units hold, and leaves them as they were. -/
theorem operate_withUnits (s : State) (cs : List Check) (ws : List Word) (rd : Reader) (wr : Writer) (gen : Generator)
    (chk : Checksum) (crc : Crc) :
    ∃ t, operate s cs s ws = .next t ∧ t = t.withUnits s.rd s.wr s.gen s.chk s.crc ∧
      operate (s.withUnits rd wr gen chk crc) cs (s.withUnits rd wr gen chk crc) ws =
        .next (t.withUnits rd wr gen chk crc) := by
  rcases operate_cases s cs s ws with ⟨hf, h⟩ | ⟨hf, c, hc, h⟩ | ⟨hf, hc, h⟩
  · exact ⟨_, h, rfl, operate_of_faulted (s := s.withUnits rd wr gen chk crc) hf cs _ ws⟩
  · exact ⟨_, h, rfl, operate_of_failure (s := s.withUnits rd wr gen chk crc) hf hc _ ws⟩
  · exact ⟨_, h, rfl, operate_of_success (s := s.withUnits rd wr gen chk crc) hf hc _ ws⟩

/-- Settles O55: the checks and the result of each of the eight operations come from the payload alone. -/
theorem wholeSequenceOperationsIgnoreUnits : Obligations.WholeSequenceOperationsIgnoreUnits := by
  intro i s rd wr gen chk crc hi
  cases i
  case bitpack | shuf | unshuf | ciphDec | ciphEnc | chksum | crc32 | revive =>
    exact operate_withUnits s _ _ rd wr gen chk crc
  all_goals exact absurd hi Bool.false_ne_true

/-! ## Unspecified registers (R37, U1, U2) -/

/-- States the host cannot tell apart, in the middle of the same transaction. -/
structure State.AgreeInTransaction (s t : State) : Prop extends s.Agree t where
  cmd : s.cmd = t.cmd
  payload : s.payload = t.payload

/-- Both answers are next states, and the host cannot tell these apart. -/
def AnswersAgree (a b : StepResult) : Prop := ∃ s t, a = .next s ∧ b = .next t ∧ s.Agree t

section Agreement

variable {s t : State}

/-! ### What keeps the agreement -/

theorem State.Agree.answered (h : s.Agree t) (ws : List Word) : (s.answered ws).Agree (t.answered ws) :=
  { h with outbox := congrArg (· ++ _) h.outbox }

theorem State.Agree.turnedAway (h : s.Agree t) (st : Byte) : (s.turnedAway st).Agree (t.turnedAway st) :=
  { h with outbox := congrArg (· ++ _) h.outbox }

theorem State.AgreeInTransaction.faultTaken (h : s.AgreeInTransaction t) (code : Byte) :
    (s.faultTaken code).Agree (t.faultTaken code) :=
  { h with faultCode := rfl, fcmd := h.cmd, outbox := congrArg (· ++ _) h.outbox }

theorem State.Agree.setRd (h : s.Agree t) {u v : Reader} (e : u = v) : (s.setRd u).Agree (t.setRd v) :=
  { h with rdValid := congrArg _ e, rd := fun _ => e }

theorem State.Agree.setWr (h : s.Agree t) {u v : Writer} (e : u = v) : (s.setWr u).Agree (t.setWr v) :=
  { h with wrValid := congrArg _ e, wr := fun _ => e }

theorem State.Agree.setGen (h : s.Agree t) {u v : Generator} (e : u = v) : (s.setGen u).Agree (t.setGen v) :=
  { h with genValid := congrArg _ e, gen := fun _ => e }

theorem State.Agree.setChk (h : s.Agree t) {u v : Checksum} (e : u = v) : (s.setChk u).Agree (t.setChk v) :=
  { h with chkValid := congrArg _ e, chk := fun _ => e }

theorem State.Agree.setCrc (h : s.Agree t) {u v : Crc} (e : u = v) : (s.setCrc u).Agree (t.setCrc v) :=
  { h with crcValid := congrArg _ e, crc := fun _ => e }

/-- The free values drawn for a closed unit may differ: its flag is 0 in both states. -/
theorem State.Agree.closeWr (h : s.Agree t) : s.closeWr.Agree t.closeWr :=
  { h with wrValid := rfl, wr := nofun }

theorem State.Agree.closeChk (h : s.Agree t) : s.closeChk.Agree t.closeChk :=
  { h with chkValid := rfl, chk := nofun }

theorem State.Agree.closeCrc (h : s.Agree t) : s.closeCrc.Agree t.closeCrc :=
  { h with crcValid := rfl, crc := nofun }

theorem State.Agree.resetBlock (h : s.Agree t) : s.resetBlock.Agree t.resetBlock where
  rdValid := rfl
  rd := nofun
  wrValid := rfl
  wr := nofun
  genValid := rfl
  gen := nofun
  chkValid := rfl
  chk := nofun
  crcValid := rfl
  crc := nofun
  faultCode := rfl
  fcmd := rfl
  inbox := h.inbox
  outbox := h.outbox

theorem State.Agree.withInbox (h : s.Agree t) (rest : List HostMove) :
    State.Agree { s with inbox := rest } { t with inbox := rest } :=
  { h with inbox := rfl }

theorem State.Agree.latched (h : s.Agree t) (w : Word) (p : List Word) (rest : List HostMove) :
    (s.latched w p rest).AgreeInTransaction (t.latched w p rest) :=
  { h with inbox := rfl, cmd := rfl, payload := rfl }

/-! ### What agreeing states have in common -/

theorem State.Agree.faulted (h : s.Agree t) : s.faulted = t.faulted := by
  rw [State.faulted, State.faulted, h.faultCode]

theorem State.Agree.statusImage (h : s.Agree t) : s.statusImage = t.statusImage := by
  simp only [State.statusImage, State.statusWord, h.faultCode, h.fcmd, h.rdValid, h.wrValid, h.genValid, h.chkValid,
    h.crcValid]

theorem State.AgreeInTransaction.payloadLen (h : s.AgreeInTransaction t) : s.payloadLen = t.payloadLen :=
  congrArg List.length h.payload

theorem State.AgreeInTransaction.payloadGiven (h : s.AgreeInTransaction t) : s.payloadGiven = t.payloadGiven := by
  rw [State.payloadGiven, State.payloadGiven, h.payloadLen]

theorem State.AgreeInTransaction.scalar (h : s.AgreeInTransaction t) : s.scalar = t.scalar := by
  rw [State.scalar, State.scalar, h.payload]

theorem State.AgreeInTransaction.elements (h : s.AgreeInTransaction t) : s.elements = t.elements :=
  congrArg (List.map _) h.payload

/-! ### Operations on agreeing states -/

/-- An operation agrees where its first failing check is the same in both states and, when no check fails, so are the
host's view of the effect and the result. -/
theorem operate_agree (h : s.AgreeInTransaction t) {cs cs' : List Check} {d d' : State} {ws ws' : List Word}
    (hcs : firstFailure cs = firstFailure cs') (hdone : firstFailure cs = none → d.Agree d' ∧ ws = ws') :
    AnswersAgree (operate s cs d ws) (operate t cs' d' ws') := by
  have hfault := h.faultCode
  rcases operate_cases s cs d ws with ⟨hf, hs⟩ | ⟨hf, c, hc, hs⟩ | ⟨hf, hc, hs⟩
  · exact ⟨_, _, hs, operate_of_faulted (hfault ▸ hf) _ _ _, h.turnedAway _⟩
  · exact ⟨_, _, hs, operate_of_failure (hfault ▸ hf) (hcs ▸ hc) _ _, h.faultTaken _⟩
  · obtain ⟨hd, rfl⟩ := hdone hc
    exact ⟨_, _, hs, operate_of_success (hfault ▸ hf) (hcs ▸ hc) _ _, hd.answered _⟩

/-- The case of an operation that reads no unit: the checks and the result are the same. -/
theorem operate_agree_of_eq (h : s.AgreeInTransaction t) {cs cs' : List Check} {d d' : State} {ws ws' : List Word}
    (hcs : cs = cs') (hd : d.Agree d') (hws : ws = ws') : AnswersAgree (operate s cs d ws) (operate t cs' d' ws') :=
  operate_agree h (congrArg _ hcs) fun _ => ⟨hd, hws⟩

/-- The checks behind one that fails are not evaluated (R261). -/
theorem firstFailure_append_failing (pre post post' : List Check) (c : FaultCode) :
    firstFailure (pre ++ (true, c) :: post) = firstFailure (pre ++ (true, c) :: post') := by
  induction pre with
  | nil => rfl
  | cons x pre ih => simp only [List.cons_append, firstFailure, ih]

/-- The case of an operation on a unit: it tests the unit's flag before it reads any other register of the unit. -/
theorem operate_agree_of_valid (h : s.AgreeInTransaction t) (pre : List Check) {v v' : Bool} (hv : v = v')
    {post post' : List Check} {d d' : State} {ws ws' : List Word}
    (hready : v = true → post = post' ∧ d.Agree d' ∧ ws = ws') :
    AnswersAgree (operate s (pre ++ (!v, .notReady) :: post) d ws)
      (operate t (pre ++ (!v', .notReady) :: post') d' ws') := by
  subst hv
  cases v with
  | false =>
    refine operate_agree h (firstFailure_append_failing pre post post' _) fun hc => ?_
    rw [firstFailure_eq_none] at hc
    exact absurd (hc (true, .notReady) (by simp)) (by simp)
  | true =>
    obtain ⟨rfl, hd, hws⟩ := hready rfl
    exact operate_agree_of_eq h rfl hd hws

theorem execStat_agree (h : s.AgreeInTransaction t) : AnswersAgree (execStat s) (execStat t) := by
  refine ⟨_, _, rfl, rfl, ?_⟩
  rw [h.payloadGiven, h.faulted, h.statusImage]
  split
  · split
    · exact h.turnedAway _
    · exact h.faultTaken _
  · exact h.answered _

theorem illegalCommand_agree (h : s.AgreeInTransaction t) : AnswersAgree (illegalCommand s) (illegalCommand t) :=
  operate_agree_of_eq h rfl h.toAgree rfl

/-- Every operation, by what it reads: the payload only, or a unit behind the test of its flag. -/
theorem exec_agree (i : Instr) (h : s.AgreeInTransaction t) : AnswersAgree (exec i s) (exec i t) := by
  have hlen := h.payloadLen
  have hgiven := h.payloadGiven
  have hpay := h.payload
  have helem := h.elements
  cases i
  case stat => exact execStat_agree h
  case rdLoad sw =>
    exact operate_agree_of_eq h (by rw [hlen, hpay]) (h.setRd (by rw [hpay])) rfl
  case rdRead n =>
    refine operate_agree_of_valid h [(countBad n, .badWidth)] h.rdValid fun hv => ?_
    rw [h.rd hv, hgiven]
    exact ⟨rfl, h.setRd rfl, rfl⟩
  case rdRem =>
    refine operate_agree_of_valid h [] h.rdValid fun hv => ?_
    rw [h.rd hv, hgiven]
    exact ⟨rfl, h.toAgree, rfl⟩
  case wrInit dw =>
    exact operate_agree_of_eq h (by rw [hgiven]) (h.setWr rfl) rfl
  case wrWrite n =>
    refine operate_agree_of_valid h [(countBad n, .badWidth)] h.wrValid fun hv => ?_
    rw [h.wr hv, hlen, h.scalar]
    exact ⟨rfl, h.setWr rfl, rfl⟩
  case wrFin =>
    refine operate_agree_of_valid h [] h.wrValid fun hv => ?_
    rw [h.wr hv, hgiven]
    exact ⟨rfl, h.closeWr, rfl⟩
  case bitpack sw dw =>
    exact operate_agree_of_eq h (by rw [hlen, hpay]) h.toAgree (by rw [hpay])
  case shuf | unshuf =>
    exact operate_agree_of_eq h (by rw [passwordChecks, passwordChecks, hlen, hpay]) h.toAgree (by rw [hpay])
  case genSeed seed =>
    exact operate_agree_of_eq h (by rw [hgiven]) (h.setGen rfl) rfl
  case genNext =>
    refine operate_agree_of_valid h [] h.genValid fun hv => ?_
    rw [h.gen hv, hgiven]
    exact ⟨rfl, h.setGen rfl, rfl⟩
  case ciphDec | ciphEnc =>
    exact operate_agree_of_eq h (by rw [cipherChecks, cipherChecks, hlen, hpay]) h.toAgree (by rw [helem])
  case chkInit =>
    exact operate_agree_of_eq h (by rw [hgiven]) (h.setChk rfl) rfl
  case chkUpd byte =>
    refine operate_agree_of_valid h [] h.chkValid fun hv => ?_
    rw [h.chk hv, hgiven]
    exact ⟨rfl, h.setChk rfl, rfl⟩
  case chkFin =>
    refine operate_agree_of_valid h [] h.chkValid fun hv => ?_
    rw [h.chk hv, hgiven]
    exact ⟨rfl, h.closeChk, rfl⟩
  case chksum =>
    exact operate_agree_of_eq h (by rw [hlen, hpay]) h.toAgree (by rw [helem])
  case crcInit =>
    exact operate_agree_of_eq h (by rw [hgiven]) (h.setCrc rfl) rfl
  case crcUpd byte =>
    refine operate_agree_of_valid h [] h.crcValid fun hv => ?_
    rw [h.crc hv, hgiven]
    exact ⟨rfl, h.setCrc rfl, rfl⟩
  case crcFin =>
    refine operate_agree_of_valid h [] h.crcValid fun hv => ?_
    rw [h.crc hv, hgiven]
    exact ⟨rfl, h.closeCrc, rfl⟩
  case crc32 | revive =>
    exact operate_agree_of_eq h (by rw [crcChecks, crcChecks, hlen, hpay]) h.toAgree (by rw [helem])

/-- The host's next move is the same in both states, so both take the same branch. -/
theorem step_agree (h : s.Agree t) : AnswersAgree (step s) (step t) := by
  have hin := h.inbox
  rcases hs : s.inbox with _ | ⟨⟨w, p⟩ | _, rest⟩ <;> rw [hs] at hin
  case nil => exact ⟨s, t, step_of_idle hs, step_of_idle hin.symm, h⟩
  case cons.reset => exact ⟨_, _, step_of_reset hs, step_of_reset hin.symm, (h.withInbox rest).resetBlock⟩
  case cons.transaction =>
    rcases hd : decode w with e | i
    · rw [step_of_illegal hs hd, step_of_illegal hin.symm hd]
      exact illegalCommand_agree (h.latched w p rest)
    · rw [step_of_legal hs hd, step_of_legal hin.symm hd]
      exact exec_agree i (h.latched w p rest)

end Agreement

/-- Settles O16: a register of a unit is read behind the test of the unit's flag, and becomes unspecified together with
the flag's becoming 0. -/
theorem unspecifiedRegistersAreNeverObserved : Obligations.UnspecifiedRegistersAreNeverObserved := by
  intro s t s' h hs
  obtain ⟨u, t', hu, ht, hagree⟩ := step_agree h
  obtain rfl : s' = u := by rw [hs] at hu; injection hu
  exact ⟨t', ht, hagree⟩
end Machine
end Sys2Proof
end

section
/-!
PROOFS. The command word (spec/30_encoding.md): decoder and encoder are inverse, both agree with the operation map, and
what a step does with a legal and an illegal word.
-/

namespace Sys2Proof

/-! ## The decoder reads what the encoder writes (R85 to R87) -/

section Formats

variable {w : Word} {i : Instr} {opc a b c : Nat}

/-- The fields of a word without operands, which are also those of every match of the operation map. -/
theorem fields_of_opcodeWord (ho : opc < 256) :
    fieldOpc (commandWord opc 0 0 0) = opc ∧ fieldA (commandWord opc 0 0 0) = 0 ∧
      fieldB (commandWord opc 0 0 0) = 0 ∧ fieldC (commandWord opc 0 0 0) = 0 :=
  have hzero : 0 < 256 := by decide
  ⟨fieldOpc_commandWord ho hzero hzero hzero, fieldA_commandWord ho hzero hzero hzero,
    fieldB_commandWord ho hzero hzero hzero, fieldC_commandWord ho hzero hzero hzero⟩

/-! ### A format on an assembled word: the unused fields are zero, the operands come back -/

theorem formatZ_commandWord (ho : opc < 256) (j : Instr) : formatZ (commandWord opc 0 0 0) j = .ok j := by
  have ⟨_, ha, hb, hc⟩ := fields_of_opcodeWord ho
  refine whenZero_eq_ok.mpr ⟨?_, rfl⟩
  rw [ha, hb, hc]; rfl

theorem formatA_commandWord (ho : opc < 256) (ha : a < 256) (f : Nat → Instr) :
    formatA (commandWord opc a 0 0) f = .ok (f a) := by
  have hzero : 0 < 256 := by decide
  refine whenZero_eq_ok.mpr ⟨?_, by rw [fieldA_commandWord ho ha hzero hzero]⟩
  rw [fieldB_commandWord ho ha hzero hzero, fieldC_commandWord ho ha hzero hzero]; rfl

theorem formatAB_commandWord (ho : opc < 256) (ha : a < 256) (hb : b < 256) (f : Nat → Nat → Instr) :
    formatAB (commandWord opc a b 0) f = .ok (f a b) := by
  have hzero : 0 < 256 := by decide
  refine whenZero_eq_ok.mpr ⟨?_, by rw [fieldA_commandWord ho ha hb hzero, fieldB_commandWord ho ha hb hzero]⟩
  rw [fieldC_commandWord ho ha hb hzero]; rfl

theorem formatI16_commandWord (ho : opc < 256) (hb : b < 256) (hc : c < 256) (f : Nat → Instr) :
    formatI16 (commandWord opc 0 b c) f = .ok (f (b * 256 + c)) := by
  have hzero : 0 < 256 := by decide
  refine whenZero_eq_ok.mpr ⟨?_, by rw [fieldB_commandWord ho hzero hb hc, fieldC_commandWord ho hzero hb hc]⟩
  rw [fieldA_commandWord ho hzero hb hc]; rfl

theorem formatI8_commandWord (ho : opc < 256) (hc : c < 256) (f : Nat → Instr) :
    formatI8 (commandWord opc 0 0 c) f = .ok (f c) := by
  have hzero : 0 < 256 := by decide
  refine whenZero_eq_ok.mpr ⟨?_, by rw [fieldC_commandWord ho hzero hzero hc]⟩
  rw [fieldA_commandWord ho hzero hzero hc, fieldB_commandWord ho hzero hzero hc]; rfl

/-- Row by row of the operation map: the `OPC` of the encoding leads the decoder back to the operation's format. -/
theorem decode_encode (hi : i.WellFormed) : decode (encode i) = .ok i := by
  have hzero : 0 < 256 := by decide
  cases i
  case rdLoad a | rdRead a | wrInit a | wrWrite a =>
    have ha : a < 256 := of_decide_eq_true hi
    rw [encode, decode, fieldOpc_commandWord (by decide) ha hzero hzero]
    exact formatA_commandWord (by decide) ha _
  case bitpack sw dw =>
    have ⟨hsw, hdw⟩ := Bool.and_eq_true_iff.mp hi
    have hsw : sw < 256 := of_decide_eq_true hsw
    have hdw : dw < 256 := of_decide_eq_true hdw
    rw [encode, decode, fieldOpc_commandWord (by decide) hsw hdw hzero]
    exact formatAB_commandWord (by decide) hsw hdw _
  case genSeed seed =>
    have hseed : seed < 65536 := of_decide_eq_true hi
    have hb : seed / 256 < 256 := by omega
    have hc : seed % 256 < 256 := by omega
    rw [encode, decode, fieldOpc_commandWord (by decide) hzero hb hc]
    exact (formatI16_commandWord (by decide) hb hc _).trans (by rw [Nat.div_add_mod'])
  case chkUpd byte | crcUpd byte =>
    have hbyte : byte < 256 := of_decide_eq_true hi
    rw [encode, decode, fieldOpc_commandWord (by decide) hzero hzero hbyte]
    exact formatI8_commandWord (by decide) hbyte _
  case stat | rdRem | wrFin | shuf | unshuf | genNext | ciphDec | ciphEnc | chkInit | chkFin | chksum | crcInit | crcFin
      | crc32 | revive =>
    rw [encode, decode, fieldOpc_commandWord (by decide) hzero hzero hzero]
    exact formatZ_commandWord (by decide) _

/-! ## The encoder writes what the decoder reads (R88) -/

/-! ### The word of an accepted format: its operands, and zero in the other fields -/

theorem commandWord_of_fields (ho : fieldOpc w = opc) (ha : fieldA w = a) (hb : fieldB w = b) (hc : fieldC w = c) :
    commandWord opc a b c = w := by
  rw [← ho, ← ha, ← hb, ← hc, commandWord_fields]

theorem formatZ_encode {j : Instr} (h : formatZ w j = .ok i) (ho : fieldOpc w = opc)
    (hj : encode j = commandWord opc 0 0 0) : encode i = w := by
  obtain ⟨hz, rfl⟩ := whenZero_eq_ok.mp h
  simp only [Bool.and_eq_true, beq_iff_eq] at hz
  obtain ⟨⟨ha, hb⟩, hc⟩ := hz
  rw [hj, commandWord_of_fields ho ha hb hc]

theorem formatA_encode {f : Nat → Instr} (h : formatA w f = .ok i) (ho : fieldOpc w = opc)
    (hf : ∀ a, encode (f a) = commandWord opc a 0 0) : encode i = w := by
  obtain ⟨hz, rfl⟩ := whenZero_eq_ok.mp h
  simp only [Bool.and_eq_true, beq_iff_eq] at hz
  obtain ⟨hb, hc⟩ := hz
  rw [hf, commandWord_of_fields ho rfl hb hc]

theorem formatAB_encode {f : Nat → Nat → Instr} (h : formatAB w f = .ok i) (ho : fieldOpc w = opc)
    (hf : ∀ a b, encode (f a b) = commandWord opc a b 0) : encode i = w := by
  obtain ⟨hc, rfl⟩ := whenZero_eq_ok.mp h
  rw [hf, commandWord_of_fields ho rfl rfl (beq_iff_eq.mp hc)]

theorem formatI16_encode {f : Nat → Instr} (h : formatI16 w f = .ok i) (ho : fieldOpc w = opc)
    (hf : ∀ v, encode (f v) = commandWord opc 0 (v / 256) (v % 256)) : encode i = w := by
  obtain ⟨ha, rfl⟩ := whenZero_eq_ok.mp h
  have hc := fieldC_lt w
  rw [hf, commandWord_of_fields ho (beq_iff_eq.mp ha) (by omega) (by omega)]

theorem formatI8_encode {f : Nat → Instr} (h : formatI8 w f = .ok i) (ho : fieldOpc w = opc)
    (hf : ∀ v, encode (f v) = commandWord opc 0 0 v) : encode i = w := by
  obtain ⟨hz, rfl⟩ := whenZero_eq_ok.mp h
  simp only [Bool.and_eq_true, beq_iff_eq] at hz
  obtain ⟨ha, hb⟩ := hz
  rw [hf, commandWord_of_fields ho ha hb rfl]

theorem encode_of_decode (h : decode w = .ok i) : encode i = w := by
  unfold decode at h
  split at h
  case h_1 ho | h_4 ho | h_7 ho | h_9 ho | h_10 ho | h_12 ho | h_13 ho | h_14 ho | h_15 ho | h_17 ho | h_18 ho
      | h_19 ho | h_21 ho | h_22 ho | h_23 ho =>
    exact formatZ_encode h ho rfl
  case h_2 ho | h_3 ho | h_5 ho | h_6 ho => exact formatA_encode h ho fun _ => rfl
  case h_8 ho => exact formatAB_encode h ho fun _ _ => rfl
  case h_11 ho => exact formatI16_encode h ho fun _ => rfl
  case h_16 ho | h_20 ho => exact formatI8_encode h ho fun _ => rfl
  case h_24 => exact absurd h (by simp)

end Formats

/-- Settles O1: by cases on the operation, through the fields of its command word. -/
theorem decodeOfEncodeIsIdentity : Obligations.DecodeOfEncodeIsIdentity :=
  fun _ hi => decode_encode hi

/-- Settles O2: a legal word is the word of its four fields, and those its format does not use are zero. -/
theorem encodeOfDecodeIsIdentity : Obligations.EncodeOfDecodeIsIdentity :=
  fun _ _ h => ⟨decode_wellFormed h, encode_of_decode h⟩

/-! ## Decoder and operation map (R86) -/

section Masks

variable {w mask pattern : Word} {hi lo v opc : Nat}

theorem bitsOf_and (x y : Word) (hi lo : Nat) : bitsOf (x &&& y) hi lo = bitsOf x hi lo &&& bitsOf y hi lo := by
  simp only [bitsOf, BitVec.toNat_and, Nat.and_div_two_pow, Nat.and_mod_two_pow]

/-- A field that the mask keeps whole has the match's value in every word selected. -/
theorem bitsOf_of_masked (h : w &&& mask = pattern) (hkept : bitsOf mask hi lo = 2 ^ (hi - lo + 1) - 1)
    (hv : bitsOf pattern hi lo = v) : bitsOf w hi lo = v := by
  rw [← hv, ← h, bitsOf_and, hkept, Nat.and_two_pow_sub_one_eq_mod, bitsOf, Nat.mod_mod]

/-! ### A selected word, by the fields its mask keeps -/

theorem commandWord_of_maskA (ho : opc < 256) (h : w &&& 0xFF00FFFF#32 = commandWord opc 0 0 0) :
    commandWord opc (fieldA w) 0 0 = w :=
  have ⟨hopc, _, hb, hc⟩ := fields_of_opcodeWord ho
  commandWord_of_fields (bitsOf_of_masked h rfl hopc) rfl (bitsOf_of_masked h rfl hb) (bitsOf_of_masked h rfl hc)

theorem commandWord_of_maskAB (ho : opc < 256) (h : w &&& 0xFF0000FF#32 = commandWord opc 0 0 0) :
    commandWord opc (fieldA w) (fieldB w) 0 = w :=
  have ⟨hopc, _, _, hc⟩ := fields_of_opcodeWord ho
  commandWord_of_fields (bitsOf_of_masked h rfl hopc) rfl rfl (bitsOf_of_masked h rfl hc)

theorem commandWord_of_maskSeed (ho : opc < 256) (h : w &&& 0xFFFF0000#32 = commandWord opc 0 0 0) :
    commandWord opc 0 (w.toNat % 65536 / 256) (w.toNat % 65536 % 256) = w := by
  have ⟨hopc, ha, _, _⟩ := fields_of_opcodeWord ho
  refine commandWord_of_fields (bitsOf_of_masked h rfl hopc) (bitsOf_of_masked h rfl ha) ?_ ?_
  · rw [fieldB, bitsOf]; omega
  · rw [fieldC, bitsOf]; omega

theorem commandWord_of_maskByte (ho : opc < 256) (h : w &&& 0xFFFFFF00#32 = commandWord opc 0 0 0) :
    commandWord opc 0 0 (fieldC w) = w :=
  have ⟨hopc, ha, hb, _⟩ := fields_of_opcodeWord ho
  commandWord_of_fields (bitsOf_of_masked h rfl hopc) (bitsOf_of_masked h rfl ha) (bitsOf_of_masked h rfl hb) rfl

end Masks

/-- Every word that the row's mask and match select is the encoding of an operation of the row. -/
def MapRow.SelectsEncodings (row : MapRow) : Prop :=
  ∀ w : Word, w &&& row.mask = row.pattern → ∃ i : Instr, i.WellFormed ∧ i.mnemonic = row.mnemonic ∧ encode i = w

/-- A row without operands selects one word. -/
theorem selectsEncodings_of_maskAll {i : Instr} (hi : i.WellFormed) :
    MapRow.SelectsEncodings ⟨i.mnemonic, encode i, 0xFFFFFFFF⟩ :=
  fun w h => ⟨i, hi, rfl, h.symm.trans (and_maskAll w)⟩

theorem operationMap_selectsEncodings : ∀ row ∈ operationMap, row.SelectsEncodings := by
  simp only [operationMap, List.forall_mem_append, List.forall_mem_cons]
  exact
    ⟨⟨selectsEncodings_of_maskAll (i := .stat) rfl,
      fun w h => ⟨.rdLoad (fieldA w), decide_eq_true (fieldA_lt w), rfl, commandWord_of_maskA (by decide) h⟩,
      fun w h => ⟨.rdRead (fieldA w), decide_eq_true (fieldA_lt w), rfl, commandWord_of_maskA (by decide) h⟩,
      selectsEncodings_of_maskAll (i := .rdRem) rfl,
      fun w h => ⟨.wrInit (fieldA w), decide_eq_true (fieldA_lt w), rfl, commandWord_of_maskA (by decide) h⟩,
      fun w h => ⟨.wrWrite (fieldA w), decide_eq_true (fieldA_lt w), rfl, commandWord_of_maskA (by decide) h⟩,
      selectsEncodings_of_maskAll (i := .wrFin) rfl,
      fun w h => ⟨.bitpack (fieldA w) (fieldB w),
        Bool.and_eq_true_iff.mpr ⟨decide_eq_true (fieldA_lt w), decide_eq_true (fieldB_lt w)⟩, rfl,
        commandWord_of_maskAB (by decide) h⟩,
      selectsEncodings_of_maskAll (i := .shuf) rfl,
      selectsEncodings_of_maskAll (i := .unshuf) rfl,
      fun w h => ⟨.genSeed (w.toNat % 65536), decide_eq_true (Nat.mod_lt _ (by decide)), rfl,
        commandWord_of_maskSeed (by decide) h⟩,
      selectsEncodings_of_maskAll (i := .genNext) rfl,
      List.forall_mem_nil _⟩,
     selectsEncodings_of_maskAll (i := .ciphDec) rfl,
     selectsEncodings_of_maskAll (i := .ciphEnc) rfl,
     selectsEncodings_of_maskAll (i := .chkInit) rfl,
     fun w h => ⟨.chkUpd (fieldC w), decide_eq_true (fieldC_lt w), rfl, commandWord_of_maskByte (by decide) h⟩,
     selectsEncodings_of_maskAll (i := .chkFin) rfl,
     selectsEncodings_of_maskAll (i := .chksum) rfl,
     selectsEncodings_of_maskAll (i := .crcInit) rfl,
     fun w h => ⟨.crcUpd (fieldC w), decide_eq_true (fieldC_lt w), rfl, commandWord_of_maskByte (by decide) h⟩,
     selectsEncodings_of_maskAll (i := .crcFin) rfl,
     selectsEncodings_of_maskAll (i := .crc32) rfl,
     selectsEncodings_of_maskAll (i := .revive) rfl,
     List.forall_mem_nil _⟩

theorem operationMap_mnemonics_nodup : (operationMap.map MapRow.mnemonic).Nodup := by decide

section
open Laws.EncodingSelectsRow

/-- The per-operation lemmas of Laws/PerInstr.lean, together. -/
theorem encode_selectsRow : ∀ i : Instr, Statement i
  | .stat => stat
  | .rdLoad sw => rdLoad sw
  | .rdRead n => rdRead n
  | .rdRem => rdRem
  | .wrInit dw => wrInit dw
  | .wrWrite n => wrWrite n
  | .wrFin => wrFin
  | .bitpack sw dw => bitpack sw dw
  | .shuf => shuf
  | .unshuf => unshuf
  | .genSeed seed => genSeed seed
  | .genNext => genNext
  | .ciphDec => ciphDec
  | .ciphEnc => ciphEnc
  | .chkInit => chkInit
  | .chkUpd byte => chkUpd byte
  | .chkFin => chkFin
  | .chksum => chksum
  | .crcInit => crcInit
  | .crcUpd byte => crcUpd byte
  | .crcFin => crcFin
  | .crc32 => crc32
  | .revive => revive

end

/-- A legal word selects the row of its operation's mnemonic. -/
theorem decode_selectsRow {w : Word} {i : Instr} (h : decode w = .ok i) :
    ∃ row ∈ operationMap, row.mnemonic = i.mnemonic ∧ w &&& row.mask = row.pattern :=
  encode_of_decode h ▸ encode_selectsRow i (decode_wellFormed h)

/-- A word selects a row exactly when it decodes to an operation of the row. -/
theorem selects_iff_decode {row : MapRow} (hrow : row ∈ operationMap) (w : Word) :
    w &&& row.mask = row.pattern ↔ ∃ i, decode w = .ok i ∧ i.mnemonic = row.mnemonic := by
  constructor
  · intro h
    obtain ⟨i, hi, hm, rfl⟩ := operationMap_selectsEncodings row hrow w h
    exact ⟨i, decode_encode hi, hm⟩
  · rintro ⟨i, hd, hm⟩
    obtain ⟨row', hrow', hm', hsel⟩ := decode_selectsRow hd
    obtain rfl : row' = row :=
      List.inj_on_of_nodup_map operationMap_mnemonics_nodup hrow' hrow (hm'.trans hm)
    exact hsel

/-- The decoder refuses a word exactly when the word selects no row. -/
theorem decode_error_iff (w : Word) :
    (∃ e, decode w = .error e) ↔ ∀ row ∈ operationMap, w &&& row.mask ≠ row.pattern := by
  rcases hd : decode w with e | i
  · refine iff_of_true ⟨e, rfl⟩ fun row hrow hsel => ?_
    obtain ⟨i, hi, -⟩ := (selects_iff_decode hrow w).mp hsel
    exact absurd (hd.symm.trans hi) (by simp)
  · obtain ⟨row, hrow, -, hsel⟩ := decode_selectsRow hd
    exact iff_of_false (by simp) fun h => h row hrow hsel

/-- Settles O3: a row selects encodings of its own operations only, and every legal word selects its own row. -/
theorem decodeSelectsOperationMapRow : Obligations.DecodeSelectsOperationMapRow :=
  ⟨fun _ hrow w => selects_iff_decode hrow w, operationMap_mnemonics_nodup⟩

namespace Machine

/-! ## The step on a legal and on an illegal word (R80, R84, R88) -/

/-- Settles O6: the step's equation for a legal word. -/
theorem stepRunsDecodedOperation : Obligations.StepRunsDecodedOperation :=
  fun _ _ _ _ _ hin hd => step_of_legal hin hd

/-- The one check of an illegal command fails. -/
theorem illegalCommand_of_unfaulted {s : State} (h : s.faultCode = 0#8) :
    illegalCommand s = .next (s.faultTaken 1#8) :=
  operate_of_failure h (c := .illegalOp) rfl s []

/-- Settles O4: the illegal words are those that select no row, and an illegal command is one check that fails. -/
theorem illegalCommandWordsRaiseIllegalOp : Obligations.IllegalCommandWordsRaiseIllegalOp := by
  refine ⟨decode_error_iff, by decide +kernel, fun w e hd s p rest hin hunfaulted => ?_⟩
  exact (step_of_illegal hin hd).trans (illegalCommand_of_unfaulted (s := s.latched w p rest) hunfaulted)

/-! ## One response for each transaction (R80, R83) -/

/-- A next state with one response more and the host's further moves as they were. -/
def AnswersOnce (s : State) (a : StepResult) : Prop :=
  ∃ t, a = .next t ∧ t.inbox = s.inbox ∧ ∃ r, t.outbox = s.outbox ++ [r]

section Answers

variable {s t : State}

theorem AnswersOnce.next {r : Response} (hin : t.inbox = s.inbox) (hout : t.outbox = s.outbox ++ [r]) :
    AnswersOnce s (.next t) :=
  ⟨t, rfl, hin, r, hout⟩

/-- An operation answers once when its effect leaves the host's moves and the earlier responses alone. -/
theorem operate_answersOnce (cs : List Check) (ws : List Word) (hin : t.inbox = s.inbox)
    (hout : t.outbox = s.outbox) : AnswersOnce s (operate s cs t ws) := by
  rcases operate_cases s cs t ws with ⟨-, h⟩ | ⟨-, c, -, h⟩ | ⟨-, -, h⟩ <;> rw [h]
  · exact .next rfl rfl
  · exact .next rfl rfl
  · exact .next hin (congrArg (· ++ _) hout)

theorem execStat_answersOnce (s : State) : AnswersOnce s (execStat s) := by
  unfold execStat
  split
  · split
    · exact .next rfl rfl
    · exact .next rfl rfl
  · exact .next rfl rfl

/-- Every operation answers once: its effect is on one unit, or on none. -/
theorem exec_answersOnce (i : Instr) (s : State) : AnswersOnce s (exec i s) := by
  cases i
  case stat => exact execStat_answersOnce s
  all_goals exact operate_answersOnce _ _ rfl rfl

/-- A transaction is answered once, legal or not, and the next state has the host's further moves. -/
theorem step_transaction_answersOnce {w : Word} {p : List Word} {rest : List HostMove}
    (h : s.inbox = .transaction w p :: rest) : AnswersOnce (s.latched w p rest) (step s) := by
  rcases hd : decode w with e | i
  · exact step_of_illegal h hd ▸ operate_answersOnce _ _ rfl rfl
  · exact step_of_legal h hd ▸ exec_answersOnce i _

end Answers

/-- Settles O8: by the host's next move. -/
theorem everyStepAnswersExactlyOnce : Obligations.EveryStepAnswersExactlyOnce := by
  intro s
  rcases hs : s.inbox with _ | ⟨⟨w, p⟩ | _, rest⟩
  case nil => exact ⟨s, step_of_idle hs, hs, nofun, fun _ => rfl⟩
  case cons.reset => exact ⟨_, step_of_reset hs, rfl, nofun, fun _ => rfl⟩
  case cons.transaction =>
    obtain ⟨t, ht, hin, hout⟩ := step_transaction_answersOnce hs
    exact ⟨t, ht, hin, fun _ _ _ _ => hout, fun h => absurd rfl (h w p rest)⟩

end Machine
end Sys2Proof
end

section
/-!
PROOFS. What each operation of the Bitstream unit does and refuses (spec/41_bitstream.md rules R110 to R121), from its
list of checks (spec/60_exceptions.md rule R261).
-/

namespace Sys2Proof

/-- The decoder on a word that is known to be an operation's encoding. -/
theorem decode_of_encode_eq {i : Instr} {w : Word} (hi : i.WellFormed) (hw : encode i = w) : decode w = .ok i :=
  hw ▸ decode_encode hi

/-- The word of an operation whose one operand is field `A`, as one number. -/
theorem commandWord_operandA (opc a : Nat) :
    commandWord opc a 0 0 = BitVec.ofNat 32 (opc * 2 ^ 24 + a * 0x10000) := by
  simp [commandWord]

/-- The word of an operation whose operands are the fields `A` and `B`, as one number. -/
theorem commandWord_operandsAB (opc a b : Nat) :
    commandWord opc a b 0 = BitVec.ofNat 32 (opc * 2 ^ 24 + a * 0x10000 + b * 0x100) := by
  simp [commandWord]

namespace Machine

/-! ## An operation's outcome from its list of checks (R261) -/

/-- The code that a list of checks raises when one of them fails: that of the first to fail, and so that of the last
when the others pass. -/
def failureCode : List Check → Byte
  | [] => statusOk
  | [(_, code)] => code.code
  | (failed, code) :: rest => if failed then code.code else failureCode rest

theorem failureCode_of_firstFailure {cs : List Check} {c : FaultCode} (h : firstFailure cs = some c) :
    failureCode cs = c.code := by
  induction cs using failureCode.induct with
  | case1 => simp [firstFailure] at h
  | case2 failed code =>
    cases failed
    · simp [firstFailure] at h
    · simpa [firstFailure, failureCode] using congrArg FaultCode.code (Option.some.inj h)
  | case3 code rest hrest =>
    have hcode : code = c := by simpa [firstFailure] using h
    simp [failureCode, hcode]
  | case4 failed code rest hrest hfailed ih =>
    simp only [Bool.not_eq_true] at hfailed
    subst hfailed
    simpa [failureCode] using ih (by simpa [firstFailure] using h)

section Outcome

variable {s : State} {cs : List Check} {passes : Prop}

/-- `passes` says in the words of a statement that no check fails: the operation is performed. -/
theorem operate_of_passing (h : s.faultCode = 0#8) (hcs : (∀ c ∈ cs, c.1 = false) ↔ passes) (hp : passes)
    (d : State) (ws : List Word) : operate s cs d ws = .next (d.answered ws) :=
  operate_of_success h (firstFailure_eq_none.mpr (hcs.mpr hp)) d ws

/-- Otherwise the first failing check is raised. -/
theorem operate_of_failing (h : s.faultCode = 0#8) (hcs : (∀ c ∈ cs, c.1 = false) ↔ passes) (hp : ¬ passes)
    (d : State) (ws : List Word) : operate s cs d ws = .next (s.faultTaken (failureCode cs)) := by
  rcases hc : firstFailure cs with _ | c
  · exact absurd (hcs.mp (firstFailure_eq_none.mp hc)) hp
  · rw [operate_of_failure h hc, failureCode_of_firstFailure hc]

end Outcome

/-! ### The checks in the words of the statements -/

theorem widthBad_eq_true {w : Nat} : widthBad w = true ↔ w < 1 ∨ 32 < w := by
  rw [← Bool.not_eq_false, widthBad_eq_false]
  omega

theorem countBad_eq_true {n : Nat} : countBad n = true ↔ 32 < n := by
  rw [← Bool.not_eq_false, countBad_eq_false, Nat.not_le]

theorem digitOver_eq_true {w : Nat} {ds : List Word} : digitOver w ds = true ↔ ¬ DigitsBelow w ds := by
  rw [← digitOver_eq_false, Bool.not_eq_false]

theorem State.payloadGiven_eq_true {s : State} : s.payloadGiven = true ↔ s.payload ≠ [] := by
  rw [ne_eq, ← State.payloadGiven_eq_false, Bool.not_eq_false]

theorem payloadLen_check_eq_true {s : State} : decide (s.payloadLen ≠ 1) = true ↔ s.payload.length ≠ 1 :=
  decide_eq_true_iff

theorem payloadLen_check_eq_false {s : State} : decide (s.payloadLen ≠ 1) = false ↔ s.payload.length = 1 := by
  rw [← Bool.not_eq_true, payloadLen_check_eq_true, not_not]

/-- `RD.LOAD` is performed when its width, length and digits are admitted (R110). -/
theorem rdLoad_checks (sw : Nat) (ds : List Word) :
    (∀ c ∈ [(widthBad sw, FaultCode.badWidth), (Config.exceedsMaxLen ds.length, .badLength),
      (digitOver sw ds, .digitRange)], c.1 = false) ↔
    1 ≤ sw ∧ sw ≤ 32 ∧ AtMostMaxLen ds.length ∧ DigitsBelow sw ds := by
  simp [widthBad_eq_false, digitOver_eq_false, and_assoc]

/-- `RD.READ` is performed for an admitted count on a valid Reader, without a payload (R112). -/
theorem rdRead_checks (n : Nat) (s : State) :
    (∀ c ∈ [(countBad n, FaultCode.badWidth), (!s.rd.valid, .notReady), (s.payloadGiven, .badLength)], c.1 = false) ↔
    n ≤ 32 ∧ s.rd.valid = true ∧ s.payload = [] := by
  simp [countBad_eq_false, State.payloadGiven_eq_false]

/-- `RD.REM` is performed on a valid Reader, without a payload (R114). -/
theorem rdRem_checks (s : State) :
    (∀ c ∈ [(!s.rd.valid, FaultCode.notReady), (s.payloadGiven, .badLength)], c.1 = false) ↔
    s.rd.valid = true ∧ s.payload = [] := by
  simp [State.payloadGiven_eq_false]

/-- `WR.INIT` is performed for an admitted width, without a payload (R116). -/
theorem wrInit_checks (dw : Nat) (s : State) :
    (∀ c ∈ [(widthBad dw, FaultCode.badWidth), (s.payloadGiven, .badLength)], c.1 = false) ↔
    1 ≤ dw ∧ dw ≤ 32 ∧ s.payload = [] := by
  simp [widthBad_eq_false, State.payloadGiven_eq_false, and_assoc]

/-- `WR.WRITE` is performed for an admitted count on a valid Writer, with one payload word and with room (R118). -/
theorem wrWrite_checks (n : Nat) (s : State) :
    (∀ c ∈ [(countBad n, FaultCode.badWidth), (!s.wr.valid, .notReady), (decide (s.payloadLen ≠ 1), .badLength),
      (Config.exceedsMaxLen (s.wr.lengthAfter n), .overflow)], c.1 = false) ↔
    n ≤ 32 ∧ s.wr.valid = true ∧ s.payload.length = 1 ∧
      AtMostMaxLen (s.wr.out.length + (s.wr.cnt + n) / s.wr.dw) := by
  simp only [List.forall_mem_cons, countBad_eq_false, payloadLen_check_eq_false, Writer.lengthAfter]
  simp

/-- `WR.FIN` is performed on a valid Writer, without a payload and with room for a partial digit (R120). -/
theorem wrFin_checks (s : State) :
    (∀ c ∈ [(!s.wr.valid, FaultCode.notReady), (s.payloadGiven, .badLength),
      (decide (0 < s.wr.cnt) && Config.exceedsMaxLen (s.wr.out.length + 1), .overflow)], c.1 = false) ↔
    s.wr.valid = true ∧ s.payload = [] ∧ (0 < s.wr.cnt → AtMostMaxLen (s.wr.out.length + 1)) := by
  simp [State.payloadGiven_eq_false]

/-- `BITPACK` is performed when its widths, length and digits are admitted and the result fits (R121). -/
theorem bitpack_checks (sw dw : Nat) (ds : List Word) :
    (∀ c ∈ [(widthBad sw || widthBad dw, FaultCode.badWidth), (Config.exceedsMaxLen ds.length, .badLength),
      (digitOver sw ds, .digitRange), (Config.exceedsMaxLen (packedLength sw dw ds.length), .overflow)],
      c.1 = false) ↔
    1 ≤ sw ∧ sw ≤ 32 ∧ 1 ≤ dw ∧ dw ≤ 32 ∧ AtMostMaxLen ds.length ∧ DigitsBelow sw ds ∧
      AtMostMaxLen ((ds.length * sw + dw - 1) / dw) := by
  simp [widthBad_eq_false, digitOver_eq_false, packedLength, ceilDiv, and_assoc]

/-! ### The operations performed -/

section Performed

variable {s : State}

theorem execRdLoad_performed (h : s.faultCode = 0#8) {sw : Nat} (hsw : 1 ≤ sw ∧ sw ≤ 32)
    (hlen : AtMostMaxLen s.payload.length) (hds : DigitsBelow sw s.payload) :
    exec (.rdLoad sw) s = .next ((s.setRd (Reader.load sw s.payload)).answered []) :=
  operate_of_passing h (rdLoad_checks sw s.payload) ⟨hsw.1, hsw.2, hlen, hds⟩ _ _

theorem execRdRead_performed (h : s.faultCode = 0#8) {n : Nat} (hn : n ≤ 32) (hv : s.rd.valid = true)
    (hp : s.payload = []) :
    exec (.rdRead n) s = .next ((s.setRd (s.rd.read n).1).answered [toWord (s.rd.read n).2]) :=
  operate_of_passing h (rdRead_checks n s) ⟨hn, hv, hp⟩ _ _

theorem execRdRem_performed (h : s.faultCode = 0#8) (hv : s.rd.valid = true) (hp : s.payload = []) :
    exec .rdRem s = .next (s.answered [if s.rd.remaining then 1#32 else 0#32]) := by
  refine (operate_of_passing h (rdRem_checks s) ⟨hv, hp⟩ _ _).trans ?_
  rw [scalarResult, apply_ite toWord]
  rfl

theorem execWrInit_performed (h : s.faultCode = 0#8) {dw : Nat} (hdw : 1 ≤ dw ∧ dw ≤ 32) (hp : s.payload = []) :
    exec (.wrInit dw) s = .next ((s.setWr (Writer.init dw)).answered []) :=
  operate_of_passing h (wrInit_checks dw s) ⟨hdw.1, hdw.2, hp⟩ _ _

theorem execWrWrite_performed (h : s.faultCode = 0#8) {n : Nat} (hn : n ≤ 32) (hv : s.wr.valid = true) {v : Word}
    (hp : s.payload = [v]) (hroom : AtMostMaxLen (s.wr.out.length + (s.wr.cnt + n) / s.wr.dw)) :
    exec (.wrWrite n) s = .next ((s.setWr (s.wr.write n v.toNat)).answered []) := by
  have hone : s.payload.length = 1 := by rw [hp]; rfl
  have hscalar : s.scalar = v.toNat := by rw [State.scalar, hp]; rfl
  rw [← hscalar]
  exact operate_of_passing h (wrWrite_checks n s) ⟨hn, hv, hone, hroom⟩ _ _

theorem execWrFin_performed (h : s.faultCode = 0#8) (hv : s.wr.valid = true) (hp : s.payload = [])
    (hroom : 0 < s.wr.cnt → AtMostMaxLen (s.wr.out.length + 1)) :
    exec .wrFin s = .next (s.closeWr.answered s.wr.finish) :=
  operate_of_passing h (wrFin_checks s) ⟨hv, hp, hroom⟩ _ _

end Performed

/-! ## The operations that construct, close and ask -/

/-- Settles O18: by the checks of `RD.LOAD`. -/
theorem rdLoadConstructsReader : Obligations.RdLoadConstructsReader := by
  refine ⟨fun sw hsw => ?decoded, fun sw s h h1 h32 hlen hds => ?performed, fun sw s h hbad => ?refused⟩
  case decoded => exact decode_of_encode_eq (decide_eq_true hsw) (commandWord_operandA 0x10 sw)
  case performed => exact execRdLoad_performed h ⟨h1, h32⟩ hlen hds
  case refused =>
    refine (operate_of_failing h (rdLoad_checks sw s.payload) hbad _ _).trans ?_
    simp only [failureCode, widthBad_eq_true, FaultCode.code, Bool.not_eq_false]

/-- Settles O20: by the checks of `RD.REM`. -/
theorem rdRemReportsUnreadData : Obligations.RdRemReportsUnreadData := by
  refine ⟨?decoded, fun s h hv hp => ?performed, fun s h hbad => ?refused⟩
  case decoded => exact decode_of_encode_eq (i := .rdRem) rfl rfl
  case performed =>
    rw [execRdRem_performed h hv hp]
    simp only [Reader.remaining, Bool.or_eq_true, decide_eq_true_eq]
  case refused =>
    refine (operate_of_failing h (rdRem_checks s) hbad _ _).trans ?_
    simp only [failureCode, Bool.not_eq_true', FaultCode.code]

/-- Settles O21: by the checks of `WR.INIT`. -/
theorem wrInitConstructsWriter : Obligations.WrInitConstructsWriter := by
  refine ⟨fun dw hdw => ?decoded, fun dw s h h1 h32 hp => ?performed, fun dw s h hbad => ?refused⟩
  case decoded => exact decode_of_encode_eq (decide_eq_true hdw) (commandWord_operandA 0x14 dw)
  case performed => exact execWrInit_performed h ⟨h1, h32⟩ hp
  case refused =>
    refine (operate_of_failing h (wrInit_checks dw s) hbad _ _).trans ?_
    simp only [failureCode, widthBad_eq_true, FaultCode.code]

/-- Settles O23: by the checks of `WR.FIN`; what the closed Writer holds is what `State.closeWr` draws. -/
theorem wrFinReturnsDigits : Obligations.WrFinReturnsDigits := by
  refine ⟨?decoded, fun s h hv hp hroom => ?performed, fun s h hbad => ?refused⟩
  case decoded => exact decode_of_encode_eq (i := .wrFin) rfl rfl
  case performed =>
    exact ⟨Writer.unspecified s.freeDraws, s.freeDraws + 1, rfl, execWrFin_performed h hv hp hroom⟩
  case refused =>
    refine (operate_of_failing h (wrFin_checks s) hbad _ _).trans ?_
    simp only [failureCode, Bool.not_eq_true', State.payloadGiven_eq_true, FaultCode.code]

/-! ## One read and one write -/

/-- Settles O19: by the checks of `RD.READ` and the closed form of its loop. -/
theorem rdReadReturnsNextBits : Obligations.RdReadReturnsNextBits := by
  refine ⟨fun n hn => ?decoded, fun n s h h32 hv hp hinv => ?performed, fun n s h hbad => ?refused⟩
  case decoded => exact decode_of_encode_eq (decide_eq_true hn) (commandWord_operandA 0x11 n)
  case performed =>
    rw [execRdRead_performed h h32 hv hp, Reader.read_eq hv hinv]
    rfl
  case refused =>
    refine (operate_of_failing h (rdRead_checks n s) hbad _ _).trans ?_
    simp only [failureCode, countBad_eq_true, Bool.not_eq_true', FaultCode.code]

/-- Settles O22: by the checks of `WR.WRITE` and the closed form of its loop. -/
theorem wrWriteAppendsLowBits : Obligations.WrWriteAppendsLowBits := by
  refine ⟨fun n hn => ?decoded, fun n v s h h32 hv hp hroom hinv => ?performed, fun n s h hbad => ?refused⟩
  case decoded => exact decode_of_encode_eq (decide_eq_true hn) (commandWord_operandA 0x15 n)
  case performed =>
    rw [execWrWrite_performed h h32 hv hp hroom, Writer.write_eq hv hinv]
    rfl
  case refused =>
    refine (operate_of_failing h (wrWrite_checks n s) hbad _ _).trans ?_
    simp only [failureCode, countBad_eq_true, Bool.not_eq_true', payloadLen_check_eq_true, FaultCode.code]

end Machine
end Sys2Proof
end

section
/-!
PROOFS. The Reader, the Writer and `BITPACK` as one integer that is cut from its low end (spec/00_scope.md rule R11,
spec/41_bitstream.md rules R113, R119, R122).
-/

namespace Sys2Proof
namespace Machine

/-! ## A digit sequence as one integer (R11) -/

/-- The integer whose bit string is the digits of width `w`, digit 0 lowest. -/
def streamNumber (w : Nat) (ds : List Word) : Nat := Nat.ofDigits (2 ^ w) (ds.map BitVec.toNat)

section Stream

variable {w : Nat} {ds : List Word}

theorem streamNumber_nil (w : Nat) : streamNumber w [] = 0 := rfl

theorem streamNumber_singleton (w : Nat) (d : Word) : streamNumber w [d] = d.toNat := Nat.ofDigits_singleton

theorem streamNumber_append (w : Nat) (ds es : List Word) :
    streamNumber w (ds ++ es) = streamNumber w ds + 2 ^ (ds.length * w) * streamNumber w es := by
  rw [streamNumber, List.map_append, Nat.ofDigits_append, List.length_map, ← pow_mul, Nat.mul_comm w]
  rfl

theorem DigitsBelow.map_toNat (h : DigitsBelow w ds) : ∀ d ∈ ds.map BitVec.toNat, d < 2 ^ w :=
  List.forall_mem_map.mpr h

theorem streamNumber_lt (hw : 1 ≤ w) (h : DigitsBelow w ds) : streamNumber w ds < 2 ^ (ds.length * w) := by
  have hlt := Nat.ofDigits_lt_base_pow_length (Nat.one_lt_two_pow (by omega)) h.map_toNat
  rwa [List.length_map, ← pow_mul, Nat.mul_comm] at hlt

/-- Cutting the integer at the width of the digits gives the digits back, and 0 beyond the last. -/
theorem cutDigit_streamNumber (h : DigitsBelow w ds) (k : Nat) :
    cutDigit w (streamNumber w ds) k = (ds.map BitVec.toNat).getD k 0 := by
  have hpos := Nat.two_pow_pos w
  rw [cutDigit, streamNumber, Nat.mul_comm k, pow_mul, Nat.ofDigits_div_pow_eq_ofDigits_drop k hpos _ h.map_toNat]
  rcases lt_or_ge k (ds.map BitVec.toNat).length with hk | hk
  · rw [List.drop_eq_getElem_cons hk, Nat.ofDigits_cons, Nat.add_mul_mod_self_left, List.getD_eq_getElem _ _ hk]
    exact Nat.mod_eq_of_lt (h.map_toNat _ (List.getElem_mem hk))
  · rw [List.drop_eq_nil_of_le hk, List.getD_eq_default _ _ hk]
    exact Nat.zero_mod _

/-- The bit string of R11 is the bits of the integer. -/
theorem bitAt_eq (h : DigitsBelow w ds) (hw : 1 ≤ w) (k : Nat) :
    bitAt w (ds.map BitVec.toNat) k = streamNumber w ds / 2 ^ k % 2 := by
  have hk : 2 ^ (k / w * w) * 2 ^ (k % w) = 2 ^ k := by rw [← pow_add, Nat.div_add_mod']
  have hsplit : 2 ^ w = 2 ^ (k % w) * 2 ^ (w - k % w) := by
    rw [← pow_add, Nat.add_sub_cancel' (Nat.mod_lt k hw).le]
  have htwo : 2 ∣ 2 ^ (w - k % w) := dvd_pow_self 2 (Nat.sub_ne_zero_of_lt (Nat.mod_lt k hw))
  rw [bitAt, ← cutDigit_streamNumber h, cutDigit, Nat.shiftRight_eq_div_pow, hsplit, Nat.mod_mul_right_div_self,
    Nat.mod_mod_of_dvd _ htwo, Nat.div_div_eq_div_mul, hk]

end Stream

/-- Bits `q` to `q + n - 1` of `x`, gathered again. -/
theorem numberOf_bits (x q n : Nat) : (numberOf n fun j => x / 2 ^ (q + j) % 2) = x / 2 ^ q % 2 ^ n := by
  induction n with
  | zero => simp [numberOf, Nat.mod_one]
  | succ n ih =>
    rw [numberOf, Finset.sum_range_succ, ← numberOf, ih, Nat.mod_pow_succ, Nat.div_div_eq_div_mul, ← pow_add,
      Nat.mul_comm]

/-- Bits `q` to `q + n - 1` of the source bit string are those of the integer. -/
theorem numberOf_bitAt {w : Nat} {ds : List Word} (h : DigitsBelow w ds) (hw : 1 ≤ w) (q n : Nat) :
    (numberOf n fun j => bitAt w (ds.map BitVec.toNat) (q + j)) = streamNumber w ds / 2 ^ q % 2 ^ n := by
  simp only [bitAt_eq h hw, numberOf_bits]

/-! ### An integer cut into digits -/

/-- The first `m` digits of width `w` of an integer, each in a data word. -/
def cutWords (w v m : Nat) : List Word := (List.range m).map fun k => toWord (cutDigit w v k)

@[simp] theorem length_cutWords (w v m : Nat) : (cutWords w v m).length = m := by simp [cutWords]

theorem cutWords_below (w v m : Nat) : DigitsBelow w (cutWords w v m) := digitsBelow_map_cutDigit w v _

/-- A digit of an admitted width fits its data word. -/
theorem toNat_toWord_cutDigit {w : Nat} (hw : w ≤ 32) (v k : Nat) :
    (toWord (cutDigit w v k)).toNat = cutDigit w v k := by
  have hlt : cutDigit w v k < 2 ^ 32 :=
    (Nat.mod_lt _ (Nat.two_pow_pos w)).trans_le (Nat.pow_le_pow_right (by decide) hw)
  rw [toWord, BitVec.toNat_ofNat, Nat.mod_eq_of_lt hlt]

theorem cutWords_succ (w v m : Nat) : cutWords w v (m + 1) = cutWords w v m ++ [toWord (cutDigit w v m)] := by
  simp [cutWords, List.range_succ]

/-- The digits cut from an integer are its low end. -/
theorem streamNumber_cutWords {w : Nat} (hw : w ≤ 32) (v m : Nat) :
    streamNumber w (cutWords w v m) = v % 2 ^ (m * w) := by
  induction m with
  | zero => simp [cutWords, streamNumber, Nat.mod_one]
  | succ m ih =>
    rw [cutWords_succ, streamNumber_append, ih, length_cutWords, Nat.succ_mul, pow_add, Nat.mod_mul,
      streamNumber_singleton, toNat_toWord_cutDigit hw, cutDigit]

/-- Enough digits hold the whole integer. -/
theorem streamNumber_cutWords_of_lt {w v m n : Nat} (hw : w ≤ 32) (hv : v < 2 ^ n) (hn : n ≤ m * w) :
    streamNumber w (cutWords w v m) = v := by
  rw [streamNumber_cutWords hw, Nat.mod_eq_of_lt (hv.trans_le (Nat.pow_le_pow_right (by decide) hn))]

/-- The digits of a sequence cut again at their own width: the sequence, then zeros. -/
theorem cutWords_streamNumber {w : Nat} {ds : List Word} (h : DigitsBelow w ds) {m : Nat} (hm : ds.length ≤ m) :
    cutWords w (streamNumber w ds) m = ds ++ List.replicate (m - ds.length) 0#32 := by
  refine List.ext_getElem (by simp; omega) fun k _ _ => ?_
  simp only [cutWords, List.getElem_map, List.getElem_range, cutDigit_streamNumber h, List.getElem_append,
    List.getElem_replicate]
  split
  case isTrue hk => simp [hk, toWord]
  case isFalse hk => simp [Nat.le_of_not_lt hk, toWord]

/-! ### Rounding up (R10) -/

theorem le_ceilDiv_mul (a : Nat) {b : Nat} (hb : 1 ≤ b) : a ≤ ceilDiv a b * b := by
  have hrest := Nat.mod_lt (a + b - 1) hb
  have hdiv := Nat.div_add_mod' (a + b - 1) b
  simp only [ceilDiv]
  omega

theorem ceilDiv_pos_iff {a b : Nat} (hb : 1 ≤ b) : 0 < ceilDiv a b ↔ 0 < a := by
  rw [ceilDiv, Nat.div_pos_iff]
  omega

/-- One digit less covers `b` bits less. -/
theorem ceilDiv_sub (a : Nat) {b : Nat} (hb : 1 ≤ b) : ceilDiv (a - b) b = ceilDiv a b - 1 := by
  have hdrop : ceilDiv a b - 1 = (a + b - 1 - b * 1) / b := (Nat.sub_mul_div ..).symm
  rw [hdrop, ceilDiv]
  rcases Nat.le_total b a with h | h
  · congr 1
    omega
  · rw [Nat.div_eq_of_lt (by omega), Nat.div_eq_of_lt (by omega)]

/-! ## The Reader's law (R111, R113) -/

/-- The bits that a Reader has not returned yet, as one integer: those it retains, and the unread digits above them. -/
def Reader.rest (r : Reader) : Nat := r.buffered (r.len - r.pos)

/-- How many bits a Reader has not returned yet. -/
def Reader.bitsLeft (r : Reader) : Nat := r.cnt + (r.len - r.pos) * r.sw

section Reader

variable {r : Reader}

theorem Reader.buffered_eq (r : Reader) (k : Nat) :
    r.buffered k = r.acc + 2 ^ r.cnt * streamNumber r.sw ((r.src.drop r.pos).take k) := rfl

/-- The unread digits are all the digits from `RD.POS` on. -/
theorem Reader.rest_eq (hlen : r.len = r.src.length) :
    r.rest = r.acc + 2 ^ r.cnt * streamNumber r.sw (r.src.drop r.pos) := by
  rw [Reader.rest, Reader.buffered_eq, hlen, ← List.length_drop, List.take_length]

/-- A new Reader has the whole bit string of its digits before it. -/
theorem Reader.load_rest (sw : Nat) (ds : List Word) : (Reader.load sw ds).rest = streamNumber sw ds := by
  rw [Reader.rest_eq rfl]
  simp [Reader.load]

theorem Reader.load_bitsLeft (sw : Nat) (ds : List Word) : (Reader.load sw ds).bitsLeft = ds.length * sw := by
  simp [Reader.bitsLeft, Reader.load]

/-- `k` more digits in the buffer, and the unread digits after them. -/
theorem Reader.rest_eq_buffered_add (hlen : r.len = r.src.length) {k : Nat} (hk : k ≤ r.len - r.pos) :
    r.rest = r.buffered k + 2 ^ (r.cnt + k * r.sw) * streamNumber r.sw (r.src.drop (r.pos + k)) := by
  have hsplit := streamNumber_append r.sw ((r.src.drop r.pos).take k) ((r.src.drop r.pos).drop k)
  rw [List.take_append_drop, List.drop_drop, List.length_take, List.length_drop, ← hlen, Nat.min_eq_left hk] at hsplit
  rw [Reader.rest_eq hlen, Reader.buffered_eq, hsplit, pow_add]
  ring

/-- After its loop a read holds the bits asked for, or the source has no more digits. -/
theorem Reader.digitsTaken_enough (hsw : 1 ≤ r.sw) (n : Nat) :
    n ≤ r.cnt + r.digitsTaken n * r.sw ∨ r.digitsTaken n = r.len - r.pos := by
  unfold Reader.digitsTaken
  split
  case isTrue h => exact .inl (by omega)
  case isFalse h =>
    rcases Nat.le_total (ceilDiv (n - r.cnt) r.sw) (r.len - r.pos) with hle | hle
    · rw [Nat.min_eq_right hle]
      have := le_ceilDiv_mul (n - r.cnt) hsw
      exact .inl (by omega)
    · exact .inr (Nat.min_eq_left hle)

/-- What lies above the buffer after the loop of a read lies above the bits asked for; past the end it is nothing. -/
theorem Reader.rest_eq_buffered_add_mul (hv : r.valid = true) (h : r.Inv) (n : Nat) :
    r.rest = r.buffered (r.digitsTaken n) + 2 ^ n * (2 ^ (r.cnt + r.digitsTaken n * r.sw - n) *
      streamNumber r.sw (r.src.drop (r.pos + r.digitsTaken n))) := by
  obtain ⟨hsw, -, hlen, -, -, hpos, -, -⟩ := h hv
  rw [Reader.rest_eq_buffered_add hlen (r.digitsTaken_le n), ← Nat.mul_assoc]
  rcases Reader.digitsTaken_enough hsw n with henough | hall
  · rw [← pow_add, Nat.add_sub_cancel' henough]
  · have hnone : r.src.drop (r.pos + r.digitsTaken n) = [] := List.drop_eq_nil_of_le (by omega)
    rw [hnone, streamNumber_nil, Nat.mul_zero, Nat.mul_zero]

/-- A read cuts `n` bits off the low end of what is left. -/
theorem Reader.read_snd (hv : r.valid = true) (h : r.Inv) (n : Nat) : (r.read n).2 = r.rest % 2 ^ n := by
  rw [Reader.read_eq hv h n, Reader.rest_eq_buffered_add_mul hv h n, Nat.add_mul_mod_self_left]

theorem Reader.read_rest (hv : r.valid = true) (h : r.Inv) (n : Nat) : (r.read n).1.rest = r.rest / 2 ^ n := by
  obtain ⟨-, -, hlen, -⟩ := h hv
  rw [Reader.read_eq hv h n, Reader.rest_eq (by exact hlen), Reader.rest_eq_buffered_add_mul hv h n,
    Nat.add_mul_div_left _ _ (Nat.two_pow_pos n)]

theorem Reader.read_bitsLeft (hv : r.valid = true) (h : r.Inv) (n : Nat) :
    (r.read n).1.bitsLeft = r.bitsLeft - n := by
  have hsw : 1 ≤ r.sw := (h hv).1
  have htaken := r.digitsTaken_le n
  have hsplit : (r.len - r.pos) * r.sw = r.digitsTaken n * r.sw + (r.len - (r.pos + r.digitsTaken n)) * r.sw := by
    rw [← Nat.add_mul]
    congr 1
    omega
  rw [Reader.read_eq hv h n]
  simp only [Reader.bitsLeft, hsplit]
  rcases Reader.digitsTaken_enough hsw n with henough | hall
  · omega
  · have hnone : r.len - (r.pos + r.digitsTaken n) = 0 := by omega
    rw [hnone, Nat.zero_mul]
    omega

/-- `RD.REM` tells whether a bit is left (R115). -/
theorem Reader.remaining_eq (hv : r.valid = true) (h : r.Inv) : r.remaining = decide (0 < r.bitsLeft) := by
  obtain ⟨hsw, -⟩ := h hv
  rw [Reader.remaining, ← Bool.decide_or, decide_eq_decide, Reader.bitsLeft, Nat.add_pos_iff_pos_or_pos,
    Nat.mul_pos_iff_of_pos_right hsw, Nat.sub_pos_iff_lt, or_comm]

/-- The loop of `BITPACK` pulls all that is left, cut into digits. -/
theorem pullDigits_eq (hv : r.valid = true) (h : r.Inv) {dw : Nat} (hdw : 1 ≤ dw) :
    pullDigits dw (ceilDiv r.bitsLeft dw) r = (List.range (ceilDiv r.bitsLeft dw)).map (cutDigit dw r.rest) := by
  generalize hfuel : ceilDiv r.bitsLeft dw = fuel
  induction fuel generalizing r with
  | zero => rfl
  | succ fuel ih =>
    have hleft : 0 < r.bitsLeft := (ceilDiv_pos_iff hdw).mp (by omega)
    have hfuel' : ceilDiv (r.read dw).1.bitsLeft dw = fuel := by
      rw [Reader.read_bitsLeft hv h, ceilDiv_sub _ hdw, hfuel, Nat.add_sub_cancel]
    rw [pullDigits, Reader.remaining_eq hv h, decide_eq_true hleft, if_pos rfl,
      ih ((r.read_frame dw).1.trans hv) (Reader.read_inv h dw) hfuel', Reader.read_snd hv h, Reader.read_rest hv h,
      List.range_succ_eq_map, List.map_cons, List.map_map]
    refine congrArg₂ List.cons ?_ (List.map_congr_left fun k _ => ?_)
    · simp [cutDigit]
    · rw [Function.comp_apply, cutDigit, cutDigit, Nat.div_div_eq_div_mul, ← pow_add, Nat.succ_mul, Nat.add_comm dw]

end Reader

/-! ## BITPACK (R121, R122, R124) -/

/-- The law of R122: the same integer, cut at the new width. -/
theorem seqResult_repack {sw dw : Nat} {ds : List Word} (hsw : 1 ≤ sw ∧ sw ≤ 32) (hlen : AtMostMaxLen ds.length)
    (hds : DigitsBelow sw ds) (hdw : 1 ≤ dw) :
    seqResult (repack sw dw ds) = cutWords dw (streamNumber sw ds) (ceilDiv (ds.length * sw) dw) := by
  have hpull := pullDigits_eq (r := Reader.load sw ds) rfl (Reader.load_inv hsw hlen hds) hdw
  rw [Reader.load_bitsLeft, Reader.load_rest] at hpull
  rw [repack, packedLength, hpull, seqResult, List.map_map]
  rfl

/-- `BITPACK` performed. -/
theorem execBitpack_performed {s : State} {sw dw : Nat} (h : s.faultCode = 0#8) (hsw : 1 ≤ sw ∧ sw ≤ 32)
    (hdw : 1 ≤ dw ∧ dw ≤ 32) (hlen : AtMostMaxLen s.payload.length) (hds : DigitsBelow sw s.payload)
    (hroom : AtMostMaxLen (ceilDiv (s.payload.length * sw) dw)) :
    exec (.bitpack sw dw) s = .next (s.answered
      (cutWords dw (streamNumber sw s.payload) (ceilDiv (s.payload.length * sw) dw))) := by
  rw [← seqResult_repack hsw hlen hds hdw.1]
  exact operate_of_passing h (bitpack_checks sw dw s.payload)
    ⟨hsw.1, hsw.2, hdw.1, hdw.2, hlen, hds, hroom⟩ _ _

/-- Settles O24: by the checks of `BITPACK` and the law of R122, read digit by digit. -/
theorem bitpackRecutsTheBitString : Obligations.BitpackRecutsTheBitString := by
  refine ⟨fun sw dw hsw hdw => ?decoded, fun sw dw s h hsw hsw32 hdw hdw32 hlen hds hroom => ?performed,
    fun sw dw s h hbad => ?refused⟩
  case decoded =>
    exact decode_of_encode_eq (Bool.and_eq_true_iff.mpr ⟨decide_eq_true hsw, decide_eq_true hdw⟩)
      (commandWord_operandsAB 0x18 sw dw)
  case performed =>
    refine (execBitpack_performed h ⟨hsw, hsw32⟩ ⟨hdw, hdw32⟩ hlen hds hroom).trans ?_
    simp only [numberOf_bitAt hds hsw]
    rfl
  case refused =>
    refine (operate_of_failing h (bitpack_checks sw dw s.payload) hbad _ _).trans ?_
    simp only [failureCode, Bool.or_eq_true, widthBad_eq_true, digitOver_eq_true, or_assoc, FaultCode.code,
      Bool.not_eq_false]

/-- Settles O45: the packed digits hold the whole integer, and cutting it at the first width gives the digits back. -/
theorem bitpackRoundTripAppendsZeros : Obligations.BitpackRoundTripAppendsZeros := by
  intro s sw dw h hsw hsw32 hdw hdw32 hlen hds hroom hroom'
  refine ⟨_, execBitpack_performed h ⟨hsw, hsw32⟩ ⟨hdw, hdw32⟩ hlen hds hroom, ?_⟩
  intro u hu hpayload
  have hplen : u.payload.length = ceilDiv (s.payload.length * sw) dw := by rw [hpayload, length_cutWords]
  have hnumber : streamNumber dw u.payload = streamNumber sw s.payload := by
    rw [hpayload]
    exact streamNumber_cutWords_of_lt hdw32 (streamNumber_lt hsw hds) (le_ceilDiv_mul _ hdw)
  have hlonger : s.payload.length ≤ ceilDiv (ceilDiv (s.payload.length * sw) dw * dw) sw := by
    refine Nat.le_of_mul_le_mul_right ?_ hsw
    exact (le_ceilDiv_mul _ hdw).trans (le_ceilDiv_mul _ hsw)
  have hback := execBitpack_performed (s := u) hu ⟨hdw, hdw32⟩ ⟨hsw, hsw32⟩ (by rw [hplen]; exact hroom)
    (hpayload ▸ cutWords_below dw _ _) (by rw [hplen]; exact hroom')
  rw [hback, hnumber, hplen, cutWords_streamNumber hds hlonger]
  rfl

end Machine
end Sys2Proof
end

section
/-!
PROOFS. Runs of the Bitstream unit: what a sequence of transactions leads to, one transaction after the other
(spec/41_bitstream.md rules R113, R115, R119).
-/

namespace Sys2Proof
namespace Machine

/-! ## Runs, one transaction after the other -/

theorem core_run_succ {s t : State} (h : step s = .next t) (k : Nat) : core.run (k + 1) s = core.run k t := by
  have hstep : core.step s = .next t := h
  simp only [Host.Core.run, hstep]

/-- A run goes on from the state that its first `k` steps reach. -/
theorem core_run_add {k : Nat} {s t : State} (h : core.run k s = .next t) (m : Nat) :
    core.run (k + m) s = core.run m t := by
  induction k generalizing s with
  | zero =>
    obtain rfl : s = t := Host.Outcome.next.inj h
    rw [Nat.zero_add]
  | succ k ih =>
    rcases hstep : step s with u | f | f
    case next =>
      rw [Nat.succ_add, core_run_succ hstep]
      exact ih ((core_run_succ hstep k).symm.trans h)
    case fault => exact nomatch f
    case refused =>
      have hrefused : core.step s = .refused f := hstep
      simp only [Host.Core.run, hrefused] at h
      exact nomatch h

/-- From every state with `P` in which the host's next moves are `moves`, the block takes just these and reaches a state
with `Q`. -/
def Leads (P : State → Prop) (moves : List HostMove) (Q : State → Prop) : Prop :=
  ∀ s rest, P s → s.inbox = moves ++ rest → ∃ t, core.run moves.length s = .next t ∧ t.inbox = rest ∧ Q t

section Leads

variable {P Q R : State → Prop} {moves more : List HostMove}

theorem Leads.nil (P : State → Prop) : Leads P [] P :=
  fun s _ hP hin => ⟨s, rfl, hin, hP⟩

theorem Leads.append (h : Leads P moves Q) (h' : Leads Q more R) : Leads P (moves ++ more) R := by
  intro s rest hP hin
  obtain ⟨t, hrun, htin, hQ⟩ := h s (more ++ rest) hP (by rw [hin, List.append_assoc])
  obtain ⟨u, hrun', huin, hR⟩ := h' t rest hQ htin
  refine ⟨u, ?_, huin, hR⟩
  rw [List.length_append, core_run_add hrun, hrun']

/-- One transaction, from what its operation does; `P` does not speak of the host's side. -/
theorem Leads.issue {i : Instr} {p : List Word} (hi : i.WellFormed)
    (hP : ∀ s w q rest, P s → P (s.latched w q rest))
    (h : ∀ s, P s → s.payload = p → ∃ t, exec i s = .next t ∧ Q t) : Leads P [issue i p] Q := by
  intro s rest hs hin
  obtain ⟨t, ht, hQ⟩ := h _ (hP s (encode i) p rest hs) rfl
  have hstep : step s = .next t := (step_of_legal hin (decode_encode hi)).trans ht
  obtain ⟨t', ht', hin', -⟩ := exec_answersOnce i (s.latched (encode i) p rest)
  obtain rfl : t = t' := Host.Outcome.next.inj (ht.symm.trans ht')
  exact ⟨t, core_run_succ hstep 0, hin', hQ⟩

theorem Leads.runMoves {s : State} (h : Leads P moves Q) (hP : P { s with inbox := moves }) :
    ∃ t, s.runMoves moves = .next t ∧ Q t := by
  obtain ⟨t, hrun, -, hQ⟩ := h _ [] hP (List.append_nil moves).symm
  exact ⟨t, hrun, hQ⟩

end Leads

/-- A response `OK`. -/
def okResponse (result : List Word) : Response := { status := 0#8, result := result }

/-- An unfaulted state that has given just these responses. -/
def Unfaulted (out : List Response) (s : State) : Prop := s.faultCode = 0#8 ∧ s.outbox = out

theorem Unfaulted.latched {out : List Response} (s : State) (w : Word) (p : List Word) (rest : List HostMove)
    (h : Unfaulted out s) : Unfaulted out (s.latched w p rest) := h

theorem State.lastResponse_eq {s : State} {out : List Response} {r : Response} (h : s.outbox = out ++ [r]) :
    s.lastResponse = some r := by
  rw [State.lastResponse, h, List.getLast?_concat]

/-- An admitted width or count fits its field. -/
theorem fitsByteField_of_le {n : Nat} (h : n ≤ 32) : FitsByteField n := h.trans_lt (by decide)

/-! ## Runs of reads (R113, R115) -/

/-- A valid Reader with `left` bits before it, the integer `v`, in an unfaulted state with these responses. -/
structure ReaderAt (v left : Nat) (out : List Response) (s : State) : Prop where
  unfaulted : s.faultCode = 0#8
  outbox : s.outbox = out
  valid : s.rd.valid = true
  inv : s.rd.Inv
  rest : s.rd.rest = v
  bitsLeft : s.rd.bitsLeft = left

/-- The responses to reads of these counts, cut off the integer `v` in turn. -/
def readResponses : Nat → List Nat → List Response
  | _, [] => []
  | v, n :: ns => okResponse [toWord (v % 2 ^ n)] :: readResponses (v / 2 ^ n) ns

section Reads

variable {v left : Nat} {out : List Response}

theorem ReaderAt.latched (s : State) (w : Word) (p : List Word) (rest : List HostMove) (h : ReaderAt v left out s) :
    ReaderAt v left out (s.latched w p rest) := { h with }

theorem leads_rdLoad {sw : Nat} {ds : List Word} (hsw : 1 ≤ sw ∧ sw ≤ 32) (hlen : AtMostMaxLen ds.length)
    (hds : DigitsBelow sw ds) :
    Leads (Unfaulted out) [issue (.rdLoad sw) ds]
      (ReaderAt (streamNumber sw ds) (ds.length * sw) (out ++ [okResponse []])) := by
  refine Leads.issue (decide_eq_true (fitsByteField_of_le hsw.2)) Unfaulted.latched ?_
  rintro s ⟨hunfaulted, rfl⟩ rfl
  exact ⟨_, execRdLoad_performed hunfaulted hsw hlen hds, hunfaulted, rfl, rfl,
    Reader.load_inv hsw hlen hds, Reader.load_rest sw _, Reader.load_bitsLeft sw _⟩

theorem leads_rdRead {n : Nat} (hn : n ≤ 32) :
    Leads (ReaderAt v left out) [issue (.rdRead n) []]
      (ReaderAt (v / 2 ^ n) (left - n) (out ++ [okResponse [toWord (v % 2 ^ n)]])) := by
  refine Leads.issue (decide_eq_true (fitsByteField_of_le hn)) ReaderAt.latched ?_
  rintro s ⟨hunfaulted, rfl, hv, hinv, rfl, rfl⟩ hp
  refine ⟨_, execRdRead_performed hunfaulted hn hv hp, hunfaulted, ?_,
    (s.rd.read_frame n).1.trans hv, Reader.read_inv hinv n, Reader.read_rest hv hinv n, Reader.read_bitsLeft hv hinv n⟩
  rw [← Reader.read_snd hv hinv]
  rfl

/-- The law of R113: reads cut the integer off from its low end. -/
theorem leads_reads {ns : List Nat} (hns : ∀ n ∈ ns, n ≤ 32) :
    Leads (ReaderAt v left out) (ns.map fun n => issue (.rdRead n) [])
      (ReaderAt (v / 2 ^ ns.sum) (left - ns.sum) (out ++ readResponses v ns)) := by
  induction ns generalizing v left out with
  | nil => simpa [readResponses] using Leads.nil (ReaderAt v left out)
  | cons n ns ih =>
    obtain ⟨hn, hns⟩ := List.forall_mem_cons.mp hns
    have hrun := (leads_rdRead (v := v) (left := left) (out := out) hn).append (ih hns)
    rw [Nat.div_div_eq_div_mul, ← pow_add, Nat.sub_sub, List.append_assoc, ← List.sum_cons] at hrun
    exact hrun

theorem leads_rdRem :
    Leads (ReaderAt v left out) [issue .rdRem []]
      (Unfaulted (out ++ [okResponse [if 0 < left then 1#32 else 0#32]])) := by
  refine Leads.issue rfl ReaderAt.latched ?_
  rintro s ⟨hunfaulted, rfl, hv, hinv, rfl, rfl⟩ hp
  refine ⟨_, execRdRem_performed hunfaulted hv hp, hunfaulted, ?_⟩
  have hremaining : s.rd.remaining = true ↔ 0 < s.rd.bitsLeft := by
    rw [Reader.remaining_eq hv hinv, decide_eq_true_iff]
  simp only [← hremaining]
  rfl

end Reads

/-- Settles O41: the last of the reads cuts its bits off where those before it stopped. -/
theorem readsCutTheSourceBitString : Obligations.ReadsCutTheSourceBitString := by
  intro s sw ds ns n h hsw hsw32 hlen hds hns hn
  have hload := leads_rdLoad (out := s.outbox) ⟨hsw, hsw32⟩ hlen hds
  obtain ⟨t, hrun, hend⟩ := Leads.runMoves (s := s) ((hload.append (leads_reads hns)).append (leads_rdRead hn)) ⟨h, rfl⟩
  refine ⟨t, ?_, hend.unfaulted, ?_⟩
  · rw [← hrun, List.map_append]
    rfl
  · rw [State.lastResponse_eq hend.outbox, numberOf_bitAt hds hsw]
    rfl

/-- Settles O42: bits are left exactly while fewer were asked for than the source holds. -/
theorem remainingComparesBitCounts : Obligations.RemainingComparesBitCounts := by
  intro s sw ds ns h hsw hsw32 hlen hds hns
  have hload := leads_rdLoad (out := s.outbox) ⟨hsw, hsw32⟩ hlen hds
  obtain ⟨t, hrun, hunfaulted, hout⟩ :=
    Leads.runMoves (s := s) ((hload.append (leads_reads hns)).append leads_rdRem) ⟨h, rfl⟩
  refine ⟨t, hrun, hunfaulted, ?_⟩
  rw [State.lastResponse_eq hout, okResponse]
  simp only [Nat.sub_pos_iff_lt]

/-! ## The Writer's law (R119) -/

/-- The Writer that holds the `bits` low bits of the string `v`: the complete digits flushed, the rest retained. -/
def Writer.holding (dw bits v : Nat) : Writer where
  valid := true
  dw := dw
  acc := v / 2 ^ (bits / dw * dw)
  cnt := bits % dw
  out := cutWords dw v (bits / dw)

/-- A cut in two parts. -/
theorem cutWords_add (w v m k : Nat) : cutWords w v (m + k) = cutWords w v m ++ cutWords w (v / 2 ^ (m * w)) k := by
  rw [cutWords, List.range_add, List.map_append, List.map_map]
  refine congrArg (cutWords w v m ++ ·) (List.map_congr_left fun j _ => ?_)
  rw [Function.comp_apply, cutDigit, cutDigit, Nat.div_div_eq_div_mul, ← pow_add, Nat.add_mul]

/-- Bits above the cut do not matter to it. -/
theorem cutWords_add_mul {w m n : Nat} (h : m * w ≤ n) (v u : Nat) : cutWords w (v + 2 ^ n * u) m = cutWords w v m := by
  refine List.map_congr_left fun k hk => congrArg toWord ?_
  have hbelow : (k + 1) * w ≤ n := (Nat.mul_le_mul_right w (List.mem_range.mp hk)).trans h
  have hn : 2 ^ n = 2 ^ (k * w) * (2 ^ w * 2 ^ (n - (k + 1) * w)) := by
    rw [← pow_add, ← pow_add, ← Nat.add_assoc, ← Nat.succ_mul, Nat.add_sub_cancel' hbelow]
  rw [cutDigit, cutDigit, hn, Nat.mul_assoc, Nat.mul_assoc, Nat.add_mul_div_left _ _ (Nat.two_pow_pos _),
    Nat.add_mul_mod_self_left]

/-- Whole digits, and one more where bits remain. -/
theorem ceilDiv_eq (a : Nat) {b : Nat} (hb : 1 ≤ b) : ceilDiv a b = a / b + if 0 < a % b then 1 else 0 := by
  have hsplit : a + b - 1 = b * (a / b) + (a % b + b - 1) := by
    have := Nat.div_add_mod a b
    omega
  have hlt := Nat.mod_lt a hb
  rw [ceilDiv, hsplit, Nat.mul_add_div hb]
  split
  case isTrue h =>
    have hone : (a % b + b - 1) / b = 1 := Nat.div_eq_of_lt_le (by omega) (by omega)
    rw [hone]
  case isFalse h =>
    have hnone : (a % b + b - 1) / b = 0 := Nat.div_eq_of_lt (by omega)
    rw [hnone]

section Writer

variable {dw bits v : Nat}

theorem Writer.init_eq_holding (dw : Nat) : Writer.init dw = Writer.holding dw 0 0 := by
  simp [Writer.init, Writer.holding, cutWords]

theorem Writer.holding_inv (hdw : 1 ≤ dw ∧ dw ≤ 32) (hv : v < 2 ^ bits) (hroom : AtMostMaxLen (bits / dw)) :
    (Writer.holding dw bits v).Inv :=
  fun _ => ⟨hdw.1, hdw.2, by rwa [Writer.holding, length_cutWords], cutWords_below _ _ _, div_whole_digits_lt dw hv,
    Nat.mod_lt _ hdw.1⟩

/-- The digits that a write completes. -/
theorem div_add_mod_add_div (bits n : Nat) (hdw : 1 ≤ dw) :
    bits / dw + (bits % dw + n) / dw = (bits + n) / dw := by
  have := Nat.mul_add_div hdw (bits / dw) (bits % dw + n)
  rw [← Nat.add_assoc, Nat.div_add_mod] at this
  exact this.symm

/-- A write puts its bits above those held. -/
theorem Writer.holding_write (hdw : 1 ≤ dw ∧ dw ≤ 32) (hv : v < 2 ^ bits) (hroom : AtMostMaxLen (bits / dw))
    (n x : Nat) :
    (Writer.holding dw bits v).write n x = Writer.holding dw (bits + n) (v + 2 ^ bits * (x % 2 ^ n)) := by
  have hbits : bits / dw * dw ≤ bits := Nat.div_mul_le_self _ _
  have hbuffered : (Writer.holding dw bits v).buffered n x = (v + 2 ^ bits * (x % 2 ^ n)) / 2 ^ (bits / dw * dw) := by
    have hpow : 2 ^ bits = 2 ^ (bits / dw * dw) * 2 ^ (bits % dw) := by rw [← pow_add, Nat.div_add_mod']
    rw [hpow, Nat.mul_assoc, Nat.add_mul_div_left _ _ (Nat.two_pow_pos _)]
    rfl
  rw [Writer.write_eq rfl (Writer.holding_inv hdw hv hroom), hbuffered]
  simp only [Writer.holding, Writer.mk.injEq, true_and]
  refine ⟨?acc, Nat.mod_add_mod .., ?out⟩
  case acc => rw [Nat.div_div_eq_div_mul, ← pow_add, ← Nat.add_mul, div_add_mod_add_div _ _ hdw.1]
  case out =>
    rw [← div_add_mod_add_div bits n hdw.1, cutWords_add, cutWords_add_mul hbits]
    rfl

/-- The last digit is what remains, zero-padded. -/
theorem Writer.holding_finish (hdw : 1 ≤ dw) (hv : v < 2 ^ bits) :
    (Writer.holding dw bits v).finish = cutWords dw v (ceilDiv bits dw) := by
  have hlast : v / 2 ^ (bits / dw * dw) < 2 ^ dw :=
    (div_whole_digits_lt dw hv).trans (Nat.pow_lt_pow_right (by decide) (Nat.mod_lt _ hdw))
  rw [Writer.finish, ceilDiv_eq _ hdw]
  by_cases hcnt : 0 < bits % dw
  · rw [if_pos hcnt, if_pos (by exact hcnt), cutWords_succ, cutDigit, Nat.mod_eq_of_lt hlast]
    rfl
  · rw [if_neg hcnt, if_neg (by exact hcnt)]
    rfl

end Writer

/-! ## Runs of writes (R119) -/

/-- A Writer that holds the string `v` of `bits` bits, in an unfaulted state. -/
structure WriterAt (dw bits v : Nat) (s : State) : Prop where
  unfaulted : s.faultCode = 0#8
  writer : s.wr = Writer.holding dw bits v
  below : v < 2 ^ bits

section Writes

variable {dw bits v : Nat}

theorem WriterAt.latched (s : State) (w : Word) (p : List Word) (rest : List HostMove) (h : WriterAt dw bits v s) :
    WriterAt dw bits v (s.latched w p rest) := { h with }

theorem leads_wrInit (hdw : 1 ≤ dw ∧ dw ≤ 32) {out : List Response} :
    Leads (Unfaulted out) [issue (.wrInit dw) []] (WriterAt dw 0 0) := by
  refine Leads.issue (decide_eq_true (fitsByteField_of_le hdw.2)) Unfaulted.latched ?_
  rintro s ⟨hunfaulted, -⟩ hp
  exact ⟨_, execWrInit_performed hunfaulted hdw hp, hunfaulted,
    Writer.init_eq_holding dw, Nat.one_pos⟩

theorem leads_wrWrite (hdw : 1 ≤ dw ∧ dw ≤ 32) {n x : Nat} (hn : n ≤ 32) (hx : x < 2 ^ 32)
    (hroom : AtMostMaxLen ((bits + n) / dw)) :
    Leads (WriterAt dw bits v) [issue (.wrWrite n) [toWord x]]
      (WriterAt dw (bits + n) (v + 2 ^ bits * (x % 2 ^ n))) := by
  refine Leads.issue (decide_eq_true (fitsByteField_of_le hn)) WriterAt.latched ?_
  rintro s ⟨hunfaulted, hw, hv⟩ hp
  have hvalid : s.wr.valid = true := by rw [hw]; rfl
  have hroom' : AtMostMaxLen (s.wr.out.length + (s.wr.cnt + n) / s.wr.dw) := by
    rw [← div_add_mod_add_div bits n hdw.1] at hroom
    simpa [hw, Writer.holding] using hroom
  have hbefore : AtMostMaxLen (bits / dw) :=
    Config.exceedsMaxLen_mono (Nat.div_le_div_right (Nat.le_add_right ..)) hroom
  have hscalar : (toWord x).toNat = x := by rw [toWord, BitVec.toNat_ofNat, Nat.mod_eq_of_lt hx]
  have hwrite : s.wr.write n (toWord x).toNat = Writer.holding dw (bits + n) (v + 2 ^ bits * (x % 2 ^ n)) := by
    rw [hw, hscalar, Writer.holding_write hdw hv hbefore]
  exact ⟨_, execWrWrite_performed hunfaulted hn hvalid hp hroom', hunfaulted, hwrite,
    add_two_pow_mul_lt hv (Nat.mod_lt _ (Nat.two_pow_pos n))⟩

/-- The law of R119: the writes put the written string above what is held. -/
theorem leads_writes (hdw : 1 ≤ dw ∧ dw ≤ 32) {ws : List (Nat × Nat)} (hws : ∀ x ∈ ws, x.1 ≤ 32 ∧ x.2 < 2 ^ 32)
    (hroom : AtMostMaxLen ((bits + writtenBits ws) / dw)) :
    Leads (WriterAt dw bits v) (ws.map fun x => issue (.wrWrite x.1) [toWord x.2])
      (WriterAt dw (bits + writtenBits ws) (v + 2 ^ bits * writtenNumber ws)) := by
  induction ws generalizing bits v with
  | nil => exact Leads.nil _
  | cons x ws ih =>
    obtain ⟨⟨hn, hx⟩, hws⟩ := List.forall_mem_cons.mp hws
    have hbits : bits + writtenBits (x :: ws) = bits + x.1 + writtenBits ws := by
      rw [writtenBits, List.map_cons, List.sum_cons, ← Nat.add_assoc]
      rfl
    have hnumber : v + 2 ^ bits * writtenNumber (x :: ws) =
        v + 2 ^ bits * (x.2 % 2 ^ x.1) + 2 ^ (bits + x.1) * writtenNumber ws := by
      rw [writtenNumber, pow_add]
      ring
    rw [hbits] at hroom ⊢
    rw [hnumber]
    have hfirst := Config.exceedsMaxLen_mono (Nat.div_le_div_right (Nat.le_add_right ..)) hroom
    exact (leads_wrWrite hdw hn hx hfirst).append (ih hws hroom)

theorem leads_wrFin (hdw : 1 ≤ dw) (hroom : AtMostMaxLen (ceilDiv bits dw)) :
    Leads (WriterAt dw bits v) [issue .wrFin []] fun t => t.faultCode = 0#8 ∧ t.wr.valid = false ∧
      t.lastResponse = some (okResponse (cutWords dw v (ceilDiv bits dw))) := by
  refine Leads.issue rfl WriterAt.latched ?_
  rintro s ⟨hunfaulted, hw, hv⟩ hp
  have hvalid : s.wr.valid = true := by rw [hw]; rfl
  have hroom' : 0 < s.wr.cnt → AtMostMaxLen (s.wr.out.length + 1) := by
    intro hcnt
    rw [hw] at hcnt ⊢
    rw [ceilDiv_eq _ hdw, if_pos (by exact hcnt)] at hroom
    simpa [Writer.holding] using hroom
  refine ⟨_, execWrFin_performed hunfaulted hvalid hp hroom', hunfaulted, rfl, ?_⟩
  rw [← Writer.holding_finish hdw hv, ← hw]
  exact State.lastResponse_eq rfl

end Writes

/-- Settles O43: from an empty Writer through the writes to `WR.FIN`. -/
theorem writerCutsTheWrittenBits : Obligations.WriterCutsTheWrittenBits := by
  intro s dw ws h hdw hdw32 hws hroom
  have hroom' : AtMostMaxLen ((0 + writtenBits ws) / dw) := by
    refine Config.exceedsMaxLen_mono (Nat.div_le_div_right ?_) hroom
    omega
  have hinit := leads_wrInit (out := s.outbox) ⟨hdw, hdw32⟩
  have hwrites := leads_writes (v := 0) ⟨hdw, hdw32⟩ hws hroom'
  rw [Nat.zero_add, Nat.zero_add, pow_zero, Nat.one_mul] at hwrites
  exact Leads.runMoves ((hinit.append hwrites).append (leads_wrFin hdw hroom)) ⟨h, rfl⟩

/-! ## Reader and Writer are inverse (R119) -/

theorem writtenNumber_lt (ws : List (Nat × Nat)) : writtenNumber ws < 2 ^ writtenBits ws := by
  induction ws with
  | nil => exact Nat.one_pos
  | cons x ws ih => exact add_two_pow_mul_lt (Nat.mod_lt _ (Nat.two_pow_pos x.1)) ih

/-- Reading with the counts of the writes answers the written values. -/
theorem readResponses_writtenNumber (ws : List (Nat × Nat)) :
    readResponses (writtenNumber ws) (ws.map Prod.fst) = ws.map fun x => okResponse [toWord (x.2 % 2 ^ x.1)] := by
  induction ws with
  | nil => rfl
  | cons x ws ih =>
    have hlow : writtenNumber (x :: ws) % 2 ^ x.1 = x.2 % 2 ^ x.1 := by
      rw [writtenNumber, Nat.add_mul_mod_self_left, Nat.mod_mod]
    have hrest : writtenNumber (x :: ws) / 2 ^ x.1 = writtenNumber ws := by
      rw [writtenNumber, Nat.add_mul_div_left _ _ (Nat.two_pow_pos _),
        Nat.div_eq_of_lt (Nat.mod_lt _ (Nat.two_pow_pos _)), Nat.zero_add]
    rw [List.map_cons, List.map_cons, readResponses, hlow, hrest, ih]

/-- Settles O44: the digits hold the written string, and each read cuts off what its write put there. -/
theorem readerReturnsWrittenValues : Obligations.ReaderReturnsWrittenValues := by
  intro s dw ws h hdw hdw32 hws hroom
  have hcounts : ∀ n ∈ ws.map Prod.fst, n ≤ 32 := List.forall_mem_map.mpr fun x hx => (hws x hx).1
  have hload := leads_rdLoad (out := s.outbox) ⟨hdw, hdw32⟩
    (by rwa [length_cutWords]) (cutWords_below dw (writtenNumber ws) (ceilDiv (writtenBits ws) dw))
  rw [streamNumber_cutWords_of_lt hdw32 (writtenNumber_lt ws) (le_ceilDiv_mul _ hdw)] at hload
  obtain ⟨t, hrun, hend⟩ := Leads.runMoves (s := s) (hload.append (leads_reads hcounts)) ⟨h, rfl⟩
  refine ⟨t, ?_, hend.unfaulted, ?_⟩
  · rw [← hrun, List.map_map]
    rfl
  · rw [hend.outbox, readResponses_writtenNumber, List.append_assoc]
    rfl

end Machine
end Sys2Proof
end

section
/-!
PROOFS. The Permutation unit: SHUF gathers by the inverse of the table that UNSHUF gathers by, so that each undoes the
other (spec/42_permutation.md rules R141 to R143). The table is any bijection throughout.
-/

namespace Sys2Proof
namespace Machine

/-! ## Gathering by a table (R142) -/

section Gather

variable (perm : Equiv.Perm (Fin 30)) {code : List Word}

@[simp] theorem length_unshuffle (code : List Word) : (unshuffle perm code).length = 30 := by simp [unshuffle]

theorem getElem_unshuffle (hlen : code.length = 30) (i : Fin 30) :
    (unshuffle perm code)[i.val]'(by simp) = code[(perm i).val]'(by rw [hlen]; exact (perm i).isLt) := by
  simp [unshuffle, hlen]

theorem getElem?_unshuffle (hlen : code.length = 30) (i : Fin 30) :
    (unshuffle perm code)[i.val]? = code[(perm i).val]? := by
  have hi : i.val < (unshuffle perm code).length := by simp
  rw [List.getElem?_eq_getElem hi, List.getElem?_eq_getElem, getElem_unshuffle perm hlen]

/-- Every gathered word is one of the given ones. -/
theorem digitsBelow_unshuffle {w : Nat} (hlen : code.length = 30) (h : DigitsBelow w code) :
    DigitsBelow w (unshuffle perm code) := by
  intro d hd
  obtain ⟨i, hi, rfl⟩ := List.mem_iff_getElem.mp hd
  rw [length_unshuffle] at hi
  rw [getElem_unshuffle perm hlen ⟨i, hi⟩]
  exact h _ (List.getElem_mem _)

/-- Gathering by a table undoes gathering by its inverse. -/
theorem unshuffle_unshuffle_symm (hlen : code.length = 30) : unshuffle perm (unshuffle perm.symm code) = code := by
  refine List.ext_getElem (by rw [length_unshuffle, hlen]) fun i hi _ => ?_
  rw [length_unshuffle] at hi
  rw [getElem_unshuffle perm (length_unshuffle _ _) ⟨i, hi⟩, getElem_unshuffle perm.symm hlen]
  simp only [Equiv.symm_apply_apply]

end Gather

/-! ## Scattering by a table (R141) -/

/-- One assignment of the loop of R141. -/
def putElement (perm : Equiv.Perm (Fin 30)) (code result : List Word) (i : Fin 30) : List Word :=
  result.set (perm i).val (code.getD i.val 0#32)

section Scatter

variable (perm : Equiv.Perm (Fin 30)) (code : List Word)

theorem shuffle_eq_foldl_putElement :
    shuffle perm code = (List.finRange 30).foldl (putElement perm code) (List.replicate 30 0#32) := rfl

@[simp] theorem length_foldl_putElement (is : List (Fin 30)) (result : List Word) :
    (is.foldl (putElement perm code) result).length = result.length := by
  induction is generalizing result with
  | nil => rfl
  | cons i is ih => rw [List.foldl_cons, ih, putElement, List.length_set]

/-- The positions `PERM[i]` of the assigned elements hold them: no later assignment overwrites an element, since the
table is injective. -/
theorem getElem?_foldl_putElement (is : List (Fin 30)) {result : List Word} (hlen : result.length = 30) (j : Fin 30) :
    (is.foldl (putElement perm code) result)[(perm j).val]? =
      if j ∈ is then some (code.getD j.val 0#32) else result[(perm j).val]? := by
  induction is generalizing result with
  | nil => rfl
  | cons i is ih =>
    rw [List.foldl_cons, ih (by rw [putElement, List.length_set, hlen]), putElement]
    by_cases hij : i = j
    · have hj : (perm i).val < result.length := by rw [hlen]; exact (perm i).isLt
      subst hij
      simp [List.getElem?_set_self hj]
    · have hne : (perm i).val ≠ (perm j).val := fun h => hij (perm.injective (Fin.ext h))
      simp [List.getElem?_set_ne hne, Ne.symm hij]

/-- Scattering by a table is gathering by its inverse. -/
theorem shuffle_eq_unshuffle_symm : shuffle perm code = unshuffle perm.symm code := by
  have hlen : (shuffle perm code).length = 30 := by
    rw [shuffle_eq_foldl_putElement, length_foldl_putElement, List.length_replicate]
  refine List.ext_getElem? fun p => ?_
  by_cases hp : p < 30
  · obtain ⟨j, hj⟩ := perm.surjective ⟨p, hp⟩
    have hpj : p = (perm j).val := by rw [hj]
    rw [hpj, shuffle_eq_foldl_putElement, getElem?_foldl_putElement perm code _ List.length_replicate,
      if_pos (List.mem_finRange j)]
    simp [unshuffle]
  · rw [List.getElem?_eq_none (by omega), List.getElem?_eq_none (by rw [length_unshuffle]; omega)]

end Scatter

/-! ## SHUF and UNSHUF (R141, R142) -/

section Operations

variable {s : State}

theorem passwordLen_check_eq_true : decide (s.payloadLen ≠ Config.nsym) = true ↔ s.payload.length ≠ 30 :=
  decide_eq_true_iff

/-- `SHUF` and `UNSHUF` are performed on exactly 30 digits below 64. -/
theorem passwordChecks_pass_iff (s : State) :
    (∀ c ∈ passwordChecks s, c.1 = false) ↔ s.payload.length = 30 ∧ DigitsBelow 6 s.payload := by
  simp only [passwordChecks, List.forall_mem_cons, ← Bool.not_eq_true, passwordLen_check_eq_true, digitOver_eq_true,
    Config.symw, not_not, List.not_mem_nil, IsEmpty.forall_iff, implies_true, and_true]

theorem failureCode_passwordChecks (s : State) :
    failureCode (passwordChecks s) = if s.payload.length ≠ 30 then 3#8 else 4#8 := by
  simp only [passwordChecks, failureCode, passwordLen_check_eq_true, FaultCode.code]

theorem execShuf_performed (h : s.faultCode = 0#8) (hlen : s.payload.length = 30) (hds : DigitsBelow 6 s.payload) :
    exec .shuf s = .next (s.answered (unshuffle Config.perm.symm s.payload)) := by
  rw [← shuffle_eq_unshuffle_symm]
  exact operate_of_passing h (passwordChecks_pass_iff s) ⟨hlen, hds⟩ _ _

theorem execUnshuf_performed (h : s.faultCode = 0#8) (hlen : s.payload.length = 30) (hds : DigitsBelow 6 s.payload) :
    exec .unshuf s = .next (s.answered (unshuffle Config.perm s.payload)) :=
  operate_of_passing h (passwordChecks_pass_iff s) ⟨hlen, hds⟩ _ _

end Operations

/-- Settles O25: what is gathered by the inverse table at position `PERM[i]` is element `i`. -/
theorem shufScattersByTable : Obligations.ShufScattersByTable := by
  refine ⟨?decoded, fun s h hlen hds => ?performed, fun s h hbad => ?refused⟩
  case decoded => exact decode_of_encode_eq (i := .shuf) rfl rfl
  case performed =>
    refine ⟨_, execShuf_performed h hlen hds, length_unshuffle _ _, fun i => ?_⟩
    rw [getElem?_unshuffle _ hlen, Equiv.symm_apply_apply]
  case refused =>
    rw [← failureCode_passwordChecks]
    exact operate_of_failing h (passwordChecks_pass_iff s) hbad _ _

/-- Settles O26: by the checks of `UNSHUF` and the law of R142. -/
theorem unshufGathersByTable : Obligations.UnshufGathersByTable := by
  refine ⟨?decoded, fun s h hlen hds => ?performed, fun s h hbad => ?refused⟩
  case decoded => exact decode_of_encode_eq (i := .unshuf) rfl rfl
  case performed =>
    exact ⟨_, execUnshuf_performed h hlen hds, length_unshuffle _ _, getElem?_unshuffle _ hlen⟩
  case refused =>
    rw [← failureCode_passwordChecks]
    exact operate_of_failing h (passwordChecks_pass_iff s) hbad _ _

/-- Settles O46: either answer is again 30 digits below 64, and the two operations gather by inverse tables. -/
theorem shufAndUnshufAreInverse : Obligations.ShufAndUnshufAreInverse := by
  intro s h hlen hds
  refine ⟨⟨_, execShuf_performed h hlen hds, fun u hu hpayload => ?unshufOfShuf⟩,
    ⟨_, execUnshuf_performed h hlen hds, fun u hu hpayload => ?shufOfUnshuf⟩⟩
  case unshufOfShuf =>
    rw [execUnshuf_performed hu (hpayload ▸ length_unshuffle _ _) (hpayload ▸ digitsBelow_unshuffle _ hlen hds),
      hpayload, unshuffle_unshuffle_symm Config.perm hlen]
  case shufOfUnshuf =>
    have hback := unshuffle_unshuffle_symm Config.perm.symm hlen
    rw [Equiv.symm_symm] at hback
    rw [execShuf_performed hu (hpayload ▸ length_unshuffle _ _) (hpayload ▸ digitsBelow_unshuffle _ hlen hds),
      hpayload, hback]

end Machine
end Sys2Proof
end

section
/-!
PROOFS. What each operation of the Generator does and refuses: the placement and the passes of `GEN.SEED` as loops over
the array, and one draw (spec/43_generator.md rules R150 to R156).
-/

namespace Sys2Proof
namespace Machine

/-- The rule for the seed loops: what each round carries from `k` rounds to `k + 1` holds after all `n`. -/
theorem foldl_range'_of_rounds {α : Type} {motive : Nat → α → Prop} {f : α → Nat → α} {a : α} (n : Nat)
    (hstart : motive 0 a) (hround : ∀ k b, k < n → motive k b → motive (k + 1) (f b (k + 1))) :
    motive n ((List.range' 1 n).foldl f a) := by
  induction n with
  | zero => exact hstart
  | succ n ih =>
    rw [List.range'_1_concat, List.foldl_append, Nat.add_comm 1 n]
    exact hround n _ n.lt_succ_self (ih fun k b hk => hround k b (Nat.lt_succ_of_lt hk))

/-! ## The placement (R151 part 1, R152) -/

/-- The values of the placement loop in the order in which they are placed, the first in entry 55. -/
def placementValue (seed : Nat) : Nat → Nat
  | 0 => Config.seedBase - seed
  | 1 => 1
  | k + 2 => lagSub (placementValue seed k) (placementValue seed (k + 1))

theorem placementValue_lt (seed k : Nat) : placementValue seed k < Config.big := by
  induction k using placementValue.induct with
  | case1 => exact (Nat.sub_le _ _).trans_lt (by decide)
  | case2 => exact (by decide : 1 < Config.big)
  | case3 k ih ih' => exact lagSub_lt ih ih'

/-- The variables of the placement loop after `k` rounds. -/
structure Placement.After (seed k : Nat) (p : Placement) : Prop where
  mj : p.mj = placementValue seed k
  running : p.running = placementValue seed (k + 1)
  zero : entryOf p.s 0 = 0
  top : entryOf p.s 55 = placementValue seed 0
  placed : ∀ i, 1 ≤ i → i ≤ k → entryOf p.s (21 * i % 55) = placementValue seed i

/-- A round's entry is neither 0 nor 55, nor that of an earlier round, since 21 has no factor in common with 55. -/
theorem Placement.After.place {seed k : Nat} {p : Placement} (h : p.After seed k) (hk : k < 54) :
    (p.place (k + 1)).After seed (k + 1) := by
  obtain ⟨hmj, hrunning, hzero, htop, hplaced⟩ := h
  have hget := entryOf_withEntry p.s p.running (hi := (by omega : 21 * (k + 1) % 55 < 56))
  refine ⟨hrunning, ?running, ?zero, ?top, fun i hi hik => ?placed⟩
  case running => exact congrArg₂ lagSub hmj hrunning
  case zero => exact (hget 0).trans (by rw [if_neg (by omega), hzero])
  case top => exact (hget 55).trans (by rw [if_neg (by omega), htop])
  case placed =>
    refine (hget _).trans ?_
    by_cases hlast : i = k + 1
    · rw [hlast, if_pos rfl, hrunning]
    · rw [if_neg (by omega), hplaced i hi (by omega)]

theorem isPlacement_placed (seed : Nat) : IsPlacement seed (placed seed) := by
  have hstart : Placement.After seed 0
      { s := withEntry (Vector.replicate 56 0) 55 (Config.seedBase - seed), mj := Config.seedBase - seed,
        running := 1 } := by
    have hget := entryOf_withEntry (Vector.replicate 56 0) (Config.seedBase - seed) (hi := (by decide : 55 < 56))
    exact ⟨rfl, rfl, (hget 0).trans EntriesInv.zeros.1, hget 55, fun i hi hi' => by omega⟩
  obtain ⟨-, -, hzero, htop, hplaced⟩ :=
    foldl_range'_of_rounds (motive := Placement.After seed) 54 hstart fun k p hk hp => hp.place hk
  refine ⟨placementValue seed, rfl, rfl, fun i hi _ => ?_, hzero, htop, hplaced⟩
  obtain ⟨k, rfl⟩ := Nat.exists_eq_add_of_le' hi
  exact lagSub_eq_normalized (placementValue_lt seed (k + 1)).le

/-! ## A pass (R151 part 2, R153) -/

/-- The array after the first `k` rounds of a pass over `v`: the entries above `k` are still those of `v`. -/
structure PassedUpTo (v : Vector Nat 56) (k : Nat) (a : Vector Nat 56) : Prop where
  untouched : ∀ i, i = 0 ∨ k < i → entryOf a i = entryOf v i
  passed : ∀ i, 1 ≤ i → i ≤ k →
    entryOf a i = lagSub (entryOf v i) (if neighbour i < i then entryOf a (neighbour i) else entryOf v (neighbour i))

theorem PassedUpTo.round {v a : Vector Nat 56} {k : Nat} (h : PassedUpTo v k a) (hk : k < 55) :
    PassedUpTo v (k + 1) (withEntry a (k + 1) (lagSub (entryOf a (k + 1)) (entryOf a (neighbour (k + 1))))) := by
  obtain ⟨huntouched, hpassed⟩ := h
  have hget := entryOf_withEntry a (lagSub (entryOf a (k + 1)) (entryOf a (neighbour (k + 1))))
    (hi := (by omega : k + 1 < 56))
  refine ⟨fun i hi => ?untouched, fun i hi hik => ?passed⟩
  case untouched => rw [hget, if_neg (by omega), huntouched i (by omega)]
  case passed =>
    by_cases hlast : i = k + 1
    · subst hlast
      rw [hget, if_pos rfl, ← huntouched (k + 1) (by omega)]
      split
      case isTrue hbelow => rw [hget, if_neg hbelow.ne]
      case isFalse habove => rw [huntouched (neighbour (k + 1)) (by omega)]
    · rw [hget, if_neg hlast, hpassed i hi (by omega)]
      split
      case isTrue hbelow => rw [hget, if_neg (by omega)]
      case isFalse => rfl

theorem isPass_pass {v : Vector Nat 56} (h : EntriesInv v) : IsPass v (pass v) := by
  obtain ⟨huntouched, hpassed⟩ : PassedUpTo v 55 (pass v) :=
    foldl_range'_of_rounds (motive := PassedUpTo v) 55 ⟨fun _ _ => rfl, fun i hi hi' => by omega⟩
      fun k a hk ha => ha.round hk
  refine ⟨huntouched 0 (.inl rfl), fun i hi hi55 => ?_⟩
  have hn : neighbour i ≤ 55 := by unfold neighbour; omega
  rw [hpassed i hi hi55, lagSub_eq_normalized, Nat.cast_ite, neighbour]
  split
  · exact (h.pass.2 _ hn).le
  · exact (h.2 _ hn).le

/-! ## GEN.SEED and GEN.NEXT -/

/-- The word of an operation whose operand is the 16-bit immediate, as one number. -/
theorem commandWord_operandSeed (opc v : Nat) :
    commandWord opc 0 (v / 256) (v % 256) = BitVec.ofNat 32 (opc * 2 ^ 24 + v) := by
  have hfields : v / 256 * 2 ^ 8 + v % 256 = v := Nat.div_add_mod' v 256
  rw [commandWord, Nat.zero_mul, Nat.add_zero, Nat.add_assoc, hfields]

/-- `GEN.SEED` is performed without a payload (R151). -/
theorem genSeed_checks (s : State) :
    (∀ c ∈ [(s.payloadGiven, FaultCode.badLength)], c.1 = false) ↔ s.payload = [] := by
  rw [List.forall_mem_singleton, State.payloadGiven_eq_false]

/-- `GEN.NEXT` is performed on a valid Generator, without a payload (R156). -/
theorem genNext_checks (s : State) :
    (∀ c ∈ [(!s.gen.valid, FaultCode.notReady), (s.payloadGiven, .badLength)], c.1 = false) ↔
    s.gen.valid = true ∧ s.payload = [] := by
  simp [State.payloadGiven_eq_false]

section Performed

variable {s : State}

theorem execGenSeed_performed (h : s.faultCode = 0#8) (hp : s.payload = []) (seed : Nat) :
    exec (.genSeed seed) s = .next ((s.setGen (Generator.seeded seed)).answered []) :=
  operate_of_passing h (genSeed_checks s) hp _ _

theorem execGenNext_performed (h : s.faultCode = 0#8) (hv : s.gen.valid = true) (hp : s.payload = []) :
    exec .genNext s = .next ((s.setGen s.gen.draw.1).answered [toWord s.gen.draw.2]) :=
  operate_of_passing h (genNext_checks s) ⟨hv, hp⟩ _ _

end Performed

/-- Settles O27: each loop of `GEN.SEED` by its rounds. -/
theorem genSeedPlacesAndPasses : Obligations.GenSeedPlacesAndPasses := by
  refine ⟨fun seed hseed => ?decoded, fun seed s _ h hp => ?performed, fun seed s h hp => ?refused⟩
  case decoded => exact decode_of_encode_eq (decide_eq_true hseed) (commandWord_operandSeed 0x30 seed)
  case performed =>
    have h0 := entriesInv_placed seed
    exact ⟨_, _, _, _, _, execGenSeed_performed h hp seed, isPlacement_placed seed, isPass_pass h0,
      isPass_pass h0.pass, isPass_pass h0.pass.pass, isPass_pass h0.pass.pass.pass⟩
  case refused => exact operate_of_failing h (genSeed_checks s) hp _ _

/-- The cursor's next place, as the statements write it. -/
theorem advance_eq (i : Nat) : advance i = if i = 55 then 1 else i + 1 := by
  simp only [advance, Nat.reduceEqDiff]

/-- What a draw stores and returns is the normalised difference of the entries at the advanced cursors (R156). -/
theorem Generator.draw_snd_eq_normalized {g : Generator} (h : g.Inv) (hv : g.valid = true) :
    (g.draw.2 : Int) = normalized ((entryOf g.s (advance g.i1) : Int) - entryOf g.s (advance g.i2)) := by
  obtain ⟨-, hbelow, -, -, hi2, -⟩ := h hv
  exact lagSub_eq_normalized (hbelow _ (advance_range hi2).2).le

/-- Settles O28: by the checks of `GEN.NEXT` and the rule for a draw. -/
theorem genNextDrawsLaggedDifference : Obligations.GenNextDrawsLaggedDifference := by
  refine ⟨?decoded, fun s h hv hp hinv i1 i2 hi1 hi2 => ?performed, fun s h hbad => ?refused⟩
  case decoded => exact decode_of_encode_eq (i := .genNext) rfl rfl
  case performed =>
    obtain rfl : i1 = advance s.gen.i1 := hi1.trans (advance_eq _).symm
    obtain rfl : i2 = advance s.gen.i2 := hi2.trans (advance_eq _).symm
    exact ⟨_, Generator.draw_snd_eq_normalized hinv hv, execGenNext_performed h hv hp⟩
  case refused =>
    refine (operate_of_failing h (genNext_checks s) hbad _ _).trans ?_
    simp only [failureCode, Bool.not_eq_true', FaultCode.code]

end Machine
end Sys2Proof
end

section
/-!
PROOFS. The seeded Generator over many draws: where its cursors stand, what its array holds, which sequence it answers,
and the block's runs of draws (spec/43_generator.md rules R157, R158, R160).
-/

namespace Sys2Proof
namespace Machine

/-! ## The Generator after `k` draws (R157, R158) -/

section Draws

variable (seed : Nat)

theorem seeded_after_valid (k : Nat) : ((Generator.seeded seed).after k).valid = true := by
  induction k with
  | zero => rfl
  | succ k ih => exact ih

theorem seeded_after_inv (k : Nat) : ((Generator.seeded seed).after k).Inv := by
  induction k with
  | zero => exact Generator.seeded_inv seed
  | succ k ih => exact Generator.draw_inv ih

/-- The next place on the ring of 55, whose places are counted from 1. -/
theorem advance_ring (n : Nat) : advance (1 + n % 55) = 1 + (n + 1) % 55 := by
  unfold advance
  split <;> omega

/-- The first cursor stands at 0 before the first draw and then walks the ring. -/
theorem advance_seeded_after_i1 (k : Nat) : advance ((Generator.seeded seed).after k).i1 = 1 + k % 55 := by
  induction k with
  | zero => rfl
  | succ k ih => exact (congrArg advance ih).trans (advance_ring k)

theorem seeded_after_i2 (k : Nat) : ((Generator.seeded seed).after k).i2 = 1 + (k + 20) % 55 := by
  induction k with
  | zero => rfl
  | succ k ih => exact (congrArg advance ih).trans (by rw [advance_ring, Nat.add_right_comm])

theorem advance_seeded_after_i2 (k : Nat) : advance ((Generator.seeded seed).after k).i2 = 1 + (k + 21) % 55 := by
  rw [seeded_after_i2, advance_ring]

/-- The values that pass through the array: its 55 entries as `GEN.SEED` leaves them, then the outputs. -/
def lagSequence (n : Nat) : Nat :=
  if n < 55 then entryOf (Generator.seeded seed).s (n + 1) else (Generator.seeded seed).output (n - 54)

theorem lagSequence_of_lt {n : Nat} (h : n < 55) :
    lagSequence seed n = entryOf (Generator.seeded seed).s (n + 1) := if_pos h

theorem lagSequence_add (k : Nat) : lagSequence seed (k + 55) = (Generator.seeded seed).output (k + 1) :=
  if_neg (by omega)

/-- After `k` draws the array holds the 55 values of the sequence from the `k`-th on, each at its place on the ring: a
draw replaces the oldest by the newest. -/
theorem entryOf_seeded_after {k n : Nat} (hk : k ≤ n) (hn : n < k + 55) :
    entryOf ((Generator.seeded seed).after k).s (1 + n % 55) = lagSequence seed n := by
  induction k with
  | zero =>
    rw [Nat.zero_add] at hn
    rw [Nat.mod_eq_of_lt hn, lagSequence_of_lt seed hn, Nat.add_comm]
    rfl
  | succ k ih =>
    have hstore : entryOf ((Generator.seeded seed).after (k + 1)).s (1 + n % 55) =
        if 1 + n % 55 = 1 + k % 55 then (Generator.seeded seed).output (k + 1)
        else entryOf ((Generator.seeded seed).after k).s (1 + n % 55) := by
      rw [← advance_seeded_after_i1 seed k]
      exact entryOf_withEntry _ _ _ (by rw [advance_seeded_after_i1]; omega)
    rw [hstore]
    by_cases hnew : n = k + 55
    · rw [hnew, if_pos (by omega), lagSequence_add]
    · rw [if_neg (by omega), ih (by omega) (by omega)]

/-- The recurrence with the lags 55 and 34 on the whole sequence. -/
theorem seeded_output_eq_normalized (k : Nat) :
    ((Generator.seeded seed).output (k + 1) : Int) =
      normalized ((lagSequence seed k : Int) - lagSequence seed (k + 21)) := by
  have hdraw := Generator.draw_snd_eq_normalized (seeded_after_inv seed k) (seeded_after_valid seed k)
  rw [advance_seeded_after_i1, advance_seeded_after_i2, entryOf_seeded_after seed (by omega) (by omega),
    entryOf_seeded_after seed (by omega) (by omega)] at hdraw
  exact hdraw

end Draws

/-- Settles O48: the recurrence on the whole sequence, where the entries end and the outputs begin. -/
theorem generatorOutputsFollowRecurrence : Obligations.GeneratorOutputsFollowRecurrence := by
  intro seed t _ ht
  obtain ⟨k, rfl⟩ := Nat.exists_eq_add_of_le' ht
  have hfirst : lagSequence seed k = if k + 1 ≤ 55 then entryOf (Generator.seeded seed).s (k + 1)
      else (Generator.seeded seed).output (k + 1 - 55) :=
    if_congr Iff.rfl rfl (congrArg _ (by omega))
  have hsecond : lagSequence seed (k + 21) = if k + 1 ≤ 34 then entryOf (Generator.seeded seed).s (k + 1 + 21)
      else (Generator.seeded seed).output (k + 1 - 34) :=
    if_congr (by omega) (congrArg _ (by omega)) (congrArg _ (by omega))
  rw [seeded_output_eq_normalized, hfirst, hsecond, Nat.cast_ite, Nat.cast_ite]

/-! ## Runs of draws (R157, R160) -/

/-- The responses to the first `t` draws after `GEN.SEED`. -/
def drawResponses (seed t : Nat) : List Response :=
  (List.range t).map fun k => okResponse [toWord ((Generator.seeded seed).output (k + 1))]

theorem drawResponses_succ (seed t : Nat) :
    drawResponses seed (t + 1) =
      drawResponses seed t ++ [okResponse [toWord ((Generator.seeded seed).output (t + 1))]] := by
  simp only [drawResponses, List.range_succ, List.map_append, List.map_cons, List.map_nil]

/-- The Generator `t` draws after `GEN.SEED`, in an unfaulted state with these responses. -/
structure GeneratorAt (seed t : Nat) (out : List Response) (s : State) : Prop where
  unfaulted : s.faultCode = 0#8
  outbox : s.outbox = out
  gen : s.gen = (Generator.seeded seed).after t

section Runs

variable {seed t : Nat} {out : List Response}

theorem GeneratorAt.latched (s : State) (w : Word) (p : List Word) (rest : List HostMove)
    (h : GeneratorAt seed t out s) : GeneratorAt seed t out (s.latched w p rest) := { h with }

theorem leads_genSeed (hseed : seed < 65536) :
    Leads (Unfaulted out) [issue (.genSeed seed) []] (GeneratorAt seed 0 (out ++ [okResponse []])) := by
  refine Leads.issue (decide_eq_true hseed) Unfaulted.latched ?_
  rintro s ⟨hunfaulted, rfl⟩ hp
  exact ⟨_, execGenSeed_performed hunfaulted hp seed, hunfaulted, rfl, rfl⟩

theorem leads_genNext :
    Leads (GeneratorAt seed t out) [issue .genNext []]
      (GeneratorAt seed (t + 1) (out ++ [okResponse [toWord ((Generator.seeded seed).output (t + 1))]])) := by
  refine Leads.issue rfl GeneratorAt.latched ?_
  rintro s ⟨hunfaulted, rfl, hgen⟩ hp
  have hvalid : s.gen.valid = true := hgen ▸ seeded_after_valid seed t
  refine ⟨_, execGenNext_performed hunfaulted hvalid hp, hunfaulted, ?_, ?_⟩
  · rw [hgen]; rfl
  · rw [hgen]; rfl

theorem leads_draws (t : Nat) :
    Leads (GeneratorAt seed 0 out) (List.replicate t (issue .genNext []))
      (GeneratorAt seed t (out ++ drawResponses seed t)) := by
  induction t with
  | zero => exact (List.append_nil out).symm ▸ Leads.nil _
  | succ t ih =>
    rw [List.replicate_succ', drawResponses_succ, ← List.append_assoc]
    exact ih.append leads_genNext

/-- The run of `GEN.SEED` and `t` draws, from any unfaulted state. -/
theorem runMoves_draws {s : State} (h : s.faultCode = 0#8) (hseed : seed < 65536) (t : Nat) :
    ∃ u, s.runMoves (issue (.genSeed seed) [] :: List.replicate t (issue .genNext [])) = .next u ∧
      GeneratorAt seed t (s.outbox ++ [okResponse []] ++ drawResponses seed t) u :=
  Leads.runMoves (s := s) ((leads_genSeed hseed).append (leads_draws t)) ⟨h, rfl⟩

end Runs

/-- Settles O47: along the run of the draws. -/
theorem generatorCursorsWalkTheRing : Obligations.GeneratorCursorsWalkTheRing := by
  intro s seed t h hseed ht
  obtain ⟨k, rfl⟩ := Nat.exists_eq_add_of_le' ht
  obtain ⟨u, hrun, -, hout, hgen⟩ := runMoves_draws h hseed (k + 1)
  rw [drawResponses_succ, ← List.append_assoc] at hout
  refine ⟨u, hrun, ?i1, ?i2, State.lastResponse_eq hout⟩
  case i1 => rw [hgen]; exact advance_seeded_after_i1 seed k
  case i2 => rw [hgen, seeded_after_i2]

/-- From reset, the responses are that of `GEN.SEED` and those to the draws. -/
theorem responsesOf_reset_draws {seed : Nat} (hseed : seed < 65536) (t : Nat) :
    responsesOf (State.reset.runMoves (issue (.genSeed seed) [] :: List.replicate t (issue .genNext []))) =
      okResponse [] :: drawResponses seed t := by
  obtain ⟨u, hrun, -, hout, -⟩ := runMoves_draws (s := State.reset) rfl hseed t
  rw [hrun]
  exact hout

/-- Settles O49: the responses are the seeded Generator's outputs, which evaluate to the document's numbers. -/
theorem generatorReproducesDocumentVectors : Obligations.GeneratorReproducesDocumentVectors := by
  refine ⟨(responsesOf_reset_draws (by decide) 6).trans ?seed123,
    (responsesOf_reset_draws (by decide) 6).trans ?seed456, (responsesOf_reset_draws (by decide) 2).trans ?seed12⟩
  case seed123 => decide +kernel
  case seed456 => decide +kernel
  case seed12 => decide +kernel

end Machine
end Sys2Proof
end

section
/-!
PROOFS. The Stream Cipher: its output byte by byte, what CIPH.DEC and CIPH.ENC do and refuse, and that each undoes the
other (spec/44_cipher.md rules R170 to R177). Both directions are one argument, for either sign of R170.
-/

namespace Sys2Proof
namespace Machine

/-! ## Adding and subtracting modulo 256 (R10, R170) -/

theorem combine_lt (sign : Int) (b x : Nat) : combine sign b x < 256 := by
  unfold combine
  omega

theorem cast_combine (sign : Int) (b x : Nat) : (combine sign b x : Int) = ((b : Int) + sign * x) % 256 :=
  Int.toNat_of_nonneg (Int.emod_nonneg _ (by decide))

/-- Below 256 a mask to `k` bits may come first or last: `2 ^ k` divides 256. -/
theorem cast_combine_mod {k : Nat} (hk : k ≤ 8) (sign : Int) (b x : Nat) :
    ((combine sign b x % 2 ^ k : Nat) : Int) = ((b : Int) + sign * x) % (2 ^ k : Nat) := by
  have hdvd : ((2 ^ k : Nat) : Int) ∣ 256 := by exact_mod_cast pow_dvd_pow 2 hk
  rw [Int.natCast_emod, cast_combine, Int.emod_emod_of_dvd _ hdvd]

/-- The opposite sign brings a byte back that fits the mask, masked in between or not. -/
theorem combine_neg_combine {k : Nat} (hk : k ≤ 8) (sign : Int) {b : Nat} (hb : b < 2 ^ k) (x : Nat) :
    combine (-sign) (combine sign b x % 2 ^ k) x % 2 ^ k = b := by
  have hint : ((combine (-sign) (combine sign b x % 2 ^ k) x % 2 ^ k : Nat) : Int) = ((b % 2 ^ k : Nat) : Int) := by
    rw [cast_combine_mod hk, cast_combine_mod hk, Int.emod_add_emod, neg_mul, add_neg_cancel_right, Int.natCast_emod]
  rw [Int.ofNat_inj.mp hint, Nat.mod_eq_of_lt hb]

/-! ## The output byte by byte (R170, R173) -/

/-- The draw that byte `j` of a buffer is combined with, from `j = 2` on (R170). -/
def keystreamDraw (buffer : List Nat) (j : Nat) : Nat :=
  (Generator.seeded (buffer.getD 0 0 + 256 * buffer.getD 1 0)).output (j - 1)

/-- Byte `j` of the output before the final mask (R170). -/
def unmaskedByte (sign : Int) (buffer : List Nat) (j : Nat) : Nat :=
  if j < 2 then buffer.getD j 0 else combine sign (buffer.getD j 0) (keystreamDraw buffer j)

/-- How many low bits of byte `j` of `len` the final mask keeps (R173). -/
def keptBits (len j : Nat) : Nat := if j + 1 = len then remainBits len else 8

theorem remainBits_le (len : Nat) : remainBits len ≤ 8 := Nat.sub_le _ _

theorem keptBits_le (len j : Nat) : keptBits len j ≤ 8 := by
  unfold keptBits
  split
  · exact remainBits_le len
  · exact le_rfl

section Bytes

variable (sign : Int) {buffer : List Nat}

theorem cipherByte_eq_ite (buffer : List Nat) (j : Nat) :
    cipherByte sign buffer j =
      if j + 1 = buffer.length then unmaskedByte sign buffer j % 2 ^ remainBits buffer.length
      else unmaskedByte sign buffer j := rfl

theorem getD_byte_lt (hbytes : ∀ b ∈ buffer, b < 256) (j : Nat) : buffer.getD j 0 < 256 := by
  by_cases hj : j < buffer.length
  · rw [List.getD_eq_getElem _ _ hj]
    exact hbytes _ (List.getElem_mem hj)
  · rw [List.getD_eq_default _ _ (Nat.le_of_not_lt hj)]
    decide

theorem unmaskedByte_lt (hbytes : ∀ b ∈ buffer, b < 256) (j : Nat) : unmaskedByte sign buffer j < 256 := by
  unfold unmaskedByte
  split
  · exact getD_byte_lt hbytes j
  · exact combine_lt _ _ _

/-- A byte that is not the last has all its eight bits kept. -/
theorem cipherByte_eq_mod (hbytes : ∀ b ∈ buffer, b < 256) (j : Nat) :
    cipherByte sign buffer j = unmaskedByte sign buffer j % 2 ^ keptBits buffer.length j := by
  rw [cipherByte_eq_ite, keptBits]
  split
  · rfl
  · exact (Nat.mod_eq_of_lt (unmaskedByte_lt sign hbytes j)).symm

theorem cipherByte_lt (hbytes : ∀ b ∈ buffer, b < 256) (j : Nat) : cipherByte sign buffer j < 256 := by
  rw [cipherByte_eq_mod sign hbytes]
  exact (Nat.mod_le _ _).trans_lt (unmaskedByte_lt sign hbytes j)

/-! ### The loop and the mask by index -/

@[simp] theorem length_cipherTail (bs : List Nat) (g : Generator) : (cipherTail sign bs g).length = bs.length := by
  induction bs generalizing g with
  | nil => rfl
  | cons b bs ih => simp [cipherTail, ih]

/-- The loop after `k` draws combines its byte `j` with draw `k + j + 1`. -/
theorem getElem?_cipherTail (bs : List Nat) (g : Generator) (k j : Nat) :
    (cipherTail sign bs (g.after k))[j]? = bs[j]?.map fun b => combine sign b (g.output (k + j + 1)) := by
  induction bs generalizing k j with
  | nil => rfl
  | cons b bs ih =>
    cases j with
    | zero => rfl
    | succ j =>
      have hnext : (g.after k).draw.1 = g.after (k + 1) := rfl
      rw [cipherTail, List.getElem?_cons_succ, List.getElem?_cons_succ, hnext, ih,
        Nat.add_right_comm k 1 j, Nat.add_assoc k j 1]

theorem getElem?_map_range {α : Type} (n : Nat) (f : Nat → α) (j : Nat) :
    ((List.range n).map f)[j]? = if j < n then some (f j) else none := by
  split
  case isTrue hj => rw [List.getElem?_map, List.getElem?_range hj, Option.map_some]
  case isFalse hj => exact List.getElem?_eq_none (by simpa using hj)

/-- The seed of R170 as a sum: byte 0 lies below the shifted byte 1. -/
theorem seed_eq_add {b0 : Nat} (h : b0 < 256) (b1 : Nat) : b0 ||| (b1 <<< 8) = b0 + 256 * b1 := by
  rw [Nat.or_comm, ← Nat.shiftLeft_add_eq_or_of_lt h, Nat.shiftLeft_eq]
  omega

/-- The output before the final mask, by index. -/
theorem cipherLoop_eq_map {b0 : Nat} (h : b0 < 256) (b1 : Nat) (rest : List Nat) :
    b0 :: b1 :: cipherTail sign rest (Generator.seeded (b0 ||| (b1 <<< 8))) =
      (List.range (rest.length + 2)).map (unmaskedByte sign (b0 :: b1 :: rest)) := by
  refine List.ext_getElem? fun j => ?_
  rw [getElem?_map_range, seed_eq_add h]
  match j with
  | 0 => rfl
  | 1 => rfl
  | j + 2 =>
    have htail := getElem?_cipherTail sign rest (Generator.seeded (b0 + 256 * b1)) 0 j
    rw [Nat.zero_add] at htail
    refine htail.trans ?_
    split
    case isTrue hj =>
      have hrest : j < rest.length := by omega
      simp [unmaskedByte, keystreamDraw, List.getElem?_eq_getElem hrest]
    case isFalse hj => rw [List.getElem?_eq_none (by omega)]; rfl

theorem maskLast_map_range (n : Nat) (f : Nat → Nat) :
    maskLast ((List.range n).map f) =
      (List.range n).map fun j => if j + 1 = n then f j % 2 ^ remainBits n else f j := by
  refine List.ext_getElem? fun j => ?_
  rw [maskLast, List.length_map, List.length_range, List.getElem?_modify, getElem?_map_range, getElem?_map_range]
  by_cases hj : j < n
  · have hlast : n - 1 = j ↔ j + 1 = n := by omega
    simp only [if_pos hj, hlast, Nat.and_two_pow_sub_one_eq_mod]
    split <;> rfl
  · simp [if_neg hj]

/-- `cipher(buffer, sign)` is its bytes by index. -/
theorem cipher_eq_map_cipherByte (hlen : 2 ≤ buffer.length) (hbytes : ∀ b ∈ buffer, b < 256) :
    cipher sign buffer = (List.range buffer.length).map (cipherByte sign buffer) := by
  match buffer, hlen with
  | b0 :: b1 :: rest, _ =>
    rw [cipher, cipherLoop_eq_map sign (hbytes b0 List.mem_cons_self), maskLast_map_range]
    rfl

theorem length_cipher (hlen : 2 ≤ buffer.length) (hbytes : ∀ b ∈ buffer, b < 256) :
    (cipher sign buffer).length = buffer.length := by
  rw [cipher_eq_map_cipherByte sign hlen hbytes, List.length_map, List.length_range]

theorem cipher_bytes_lt (hlen : 2 ≤ buffer.length) (hbytes : ∀ b ∈ buffer, b < 256) :
    ∀ b ∈ cipher sign buffer, b < 256 := by
  rw [cipher_eq_map_cipherByte sign hlen hbytes, List.forall_mem_map]
  exact fun j _ => cipherByte_lt sign hbytes j

theorem getD_cipher (hlen : 2 ≤ buffer.length) (hbytes : ∀ b ∈ buffer, b < 256) {j : Nat} (hj : j < buffer.length) :
    (cipher sign buffer).getD j 0 = cipherByte sign buffer j := by
  rw [List.getD_eq_getElem?_getD, cipher_eq_map_cipherByte sign hlen hbytes, getElem?_map_range, if_pos hj]
  rfl

end Bytes

/-! ## The two directions undo each other (R175) -/

section Inverse

variable (sign : Int) {buffer : List Nat}

/-- From three bytes on no seed byte is the last one, so the final mask leaves the seed alone. -/
theorem cipherByte_of_seed (hlen : 3 ≤ buffer.length) {j : Nat} (hj : j < 2) :
    cipherByte sign buffer j = buffer.getD j 0 := by
  rw [cipherByte_eq_ite, if_neg (by omega), unmaskedByte, if_pos hj]

theorem cipherByte_of_rest (hbytes : ∀ b ∈ buffer, b < 256) {j : Nat} (hj : 2 ≤ j) :
    cipherByte sign buffer j =
      combine sign (buffer.getD j 0) (keystreamDraw buffer j) % 2 ^ keptBits buffer.length j := by
  rw [cipherByte_eq_mod sign hbytes, unmaskedByte, if_neg (by omega)]

variable (hlen : 3 ≤ buffer.length) (hbytes : ∀ b ∈ buffer, b < 256)

include hlen hbytes

/-- Both directions draw the same keystream, since the seed bytes pass. -/
theorem keystreamDraw_cipher (j : Nat) : keystreamDraw (cipher sign buffer) j = keystreamDraw buffer j := by
  have hseed {i : Nat} (hi : i < 2) : (cipher sign buffer).getD i 0 = buffer.getD i 0 := by
    rw [getD_cipher sign (by omega) hbytes (by omega), cipherByte_of_seed sign hlen hi]
  rw [keystreamDraw, keystreamDraw, hseed (by decide), hseed (by decide)]

theorem cipherByte_neg_cipher {j : Nat} (hj : j < buffer.length)
    (hfits : buffer.getD j 0 < 2 ^ keptBits buffer.length j) :
    cipherByte (-sign) (cipher sign buffer) j = buffer.getD j 0 := by
  have hlen2 : 2 ≤ buffer.length := by omega
  have hlenOut := length_cipher sign hlen2 hbytes
  by_cases hseed : j < 2
  · rw [cipherByte_of_seed _ (hlenOut ▸ hlen) hseed, getD_cipher sign hlen2 hbytes hj,
      cipherByte_of_seed sign hlen hseed]
  · have hrest : 2 ≤ j := by omega
    rw [cipherByte_of_rest _ (cipher_bytes_lt sign hlen2 hbytes) hrest, keystreamDraw_cipher sign hlen hbytes, hlenOut,
      getD_cipher sign hlen2 hbytes hj, cipherByte_of_rest sign hbytes hrest,
      combine_neg_combine (keptBits_le _ _) sign hfits]

theorem cipher_neg_cipher (hlast : buffer.getD (buffer.length - 1) 0 < 2 ^ remainBits buffer.length) :
    cipher (-sign) (cipher sign buffer) = buffer := by
  have hlen2 : 2 ≤ buffer.length := by omega
  have hlenOut := length_cipher sign hlen2 hbytes
  have hfits (j : Nat) : buffer.getD j 0 < 2 ^ keptBits buffer.length j := by
    unfold keptBits
    split
    case isTrue hj => exact (Nat.eq_sub_of_add_eq hj) ▸ hlast
    case isFalse => exact getD_byte_lt hbytes j
  rw [cipher_eq_map_cipherByte _ (hlenOut ▸ hlen2) (cipher_bytes_lt sign hlen2 hbytes), hlenOut]
  refine List.ext_getElem (by simp) fun j _ hj => ?_
  rw [List.getElem_map, List.getElem_range, cipherByte_neg_cipher sign hlen hbytes hj (hfits j),
    List.getD_eq_getElem _ _ hj]

end Inverse

/-! ## CIPH.DEC and CIPH.ENC (R171, R172) -/

theorem seqResult_map_toNat (ws : List Word) : seqResult (ws.map BitVec.toNat) = ws := by
  rw [seqResult, List.map_map, List.map_congr_left (g := id) fun d _ => BitVec.ofNat_toNat .., List.map_id]

theorem map_toNat_seqResult {ds : List Nat} (h : ∀ d ∈ ds, d < 256) : (seqResult ds).map BitVec.toNat = ds := by
  have hword (d : Nat) (hd : d ∈ ds) : (BitVec.toNat ∘ toWord) d = id d :=
    (BitVec.toNat_ofNat d 32).trans <| Nat.mod_eq_of_lt ((h d hd).trans (by decide))
  rw [seqResult, List.map_map, List.map_congr_left (g := id) hword, List.map_id]

theorem getD_last_map_toNat (ws : List Word) :
    (ws.map BitVec.toNat).getD (ws.length - 1) 0 = (ws.getLastD 0#32).toNat := by
  rw [List.getLastD_eq_getLast?, List.getLast?_eq_getElem?, ← List.getD_eq_getElem?_getD]
  exact List.getD_map _ 0#32 _

theorem digitsBelow_seqResult {w : Nat} {ds : List Nat} (h : ∀ d ∈ ds, d < 2 ^ w) : DigitsBelow w (seqResult ds) :=
  List.forall_mem_map.mpr fun d hd => toNat_toWord_lt (h d hd)

section Operations

variable {s : State}

theorem cipherLen_check_eq_true :
    (decide (s.payloadLen < 2) || Config.exceedsMaxLen s.payloadLen) = true ↔
      s.payload.length < 2 ∨ ¬ AtMostMaxLen s.payload.length := by
  rw [Bool.or_eq_true, decide_eq_true_iff, AtMostMaxLen, Bool.not_eq_false]
  rfl

/-- `CIPH.DEC` and `CIPH.ENC` are performed on at least two and at most `MAXLEN` bytes. -/
theorem cipherChecks_pass_iff (s : State) :
    (∀ c ∈ cipherChecks s, c.1 = false) ↔
      2 ≤ s.payload.length ∧ AtMostMaxLen s.payload.length ∧ DigitsBelow 8 s.payload := by
  simp only [cipherChecks, List.forall_mem_cons, ← Bool.not_eq_true, cipherLen_check_eq_true, digitOver_eq_true,
    not_or, not_not, Nat.not_lt, and_assoc, List.not_mem_nil, IsEmpty.forall_iff, implies_true, and_true]

theorem failureCode_cipherChecks (s : State) :
    failureCode (cipherChecks s) = if s.payload.length < 2 ∨ ¬ AtMostMaxLen s.payload.length then 3#8 else 4#8 := by
  simp only [cipherChecks, failureCode, cipherLen_check_eq_true, FaultCode.code]

/-- What either operation answers: the bytes of `cipher`, zero-extended. -/
def cipherAnswer (sign : Int) (bytes : List Word) : List Word := seqResult (cipher sign (bytes.map BitVec.toNat))

theorem execCiphDec_performed (h : s.faultCode = 0#8) (hlen : 2 ≤ s.payload.length)
    (hmax : AtMostMaxLen s.payload.length) (hds : DigitsBelow 8 s.payload) :
    exec .ciphDec s = .next (s.answered (cipherAnswer (-1) s.payload)) :=
  operate_of_passing h (cipherChecks_pass_iff s) ⟨hlen, hmax, hds⟩ _ _

theorem execCiphEnc_performed (h : s.faultCode = 0#8) (hlen : 2 ≤ s.payload.length)
    (hmax : AtMostMaxLen s.payload.length) (hds : DigitsBelow 8 s.payload) :
    exec .ciphEnc s = .next (s.answered (cipherAnswer 1 s.payload)) :=
  operate_of_passing h (cipherChecks_pass_iff s) ⟨hlen, hmax, hds⟩ _ _

end Operations

section Answers

variable (sign : Int) {bytes : List Word} (hds : DigitsBelow 8 bytes)

include hds

theorem cipherAnswer_eq_map (hlen : 2 ≤ bytes.length) :
    cipherAnswer sign bytes =
      (List.range bytes.length).map fun j => toWord (cipherByte sign (bytes.map BitVec.toNat) j) := by
  rw [cipherAnswer, seqResult, cipher_eq_map_cipherByte sign (by rwa [List.length_map]) hds.map_toNat, List.map_map,
    List.length_map]
  rfl

theorem length_cipherAnswer (hlen : 2 ≤ bytes.length) : (cipherAnswer sign bytes).length = bytes.length := by
  rw [cipherAnswer_eq_map sign hds hlen, List.length_map, List.length_range]

theorem digitsBelow_cipherAnswer (hlen : 2 ≤ bytes.length) : DigitsBelow 8 (cipherAnswer sign bytes) :=
  digitsBelow_seqResult (cipher_bytes_lt sign (by rwa [List.length_map]) hds.map_toNat)

theorem cipherAnswer_neg_cipherAnswer (hlen : 3 ≤ bytes.length)
    (hlast : (bytes.getLastD 0#32).toNat < 2 ^ (8 - bytes.length * 8 % 6)) :
    cipherAnswer (-sign) (cipherAnswer sign bytes) = bytes := by
  have hlen' : 3 ≤ (bytes.map BitVec.toNat).length := by rwa [List.length_map]
  have hlast' : (bytes.map BitVec.toNat).getD ((bytes.map BitVec.toNat).length - 1) 0 <
      2 ^ remainBits (bytes.map BitVec.toNat).length := by
    rwa [List.length_map, remainBits, getD_last_map_toNat]
  rw [cipherAnswer, cipherAnswer, map_toNat_seqResult (cipher_bytes_lt sign (by omega) hds.map_toNat),
    cipher_neg_cipher sign hlen' hds.map_toNat hlast', seqResult_map_toNat]

end Answers

/-- Settles O29: by the checks of `CIPH.DEC` and the output byte by byte. -/
theorem ciphDecRemovesKeystream : Obligations.CiphDecRemovesKeystream := by
  refine ⟨?decoded, fun s h hlen hmax hds => ?performed, fun s h hbad => ?refused⟩
  case decoded => exact decode_of_encode_eq (i := .ciphDec) rfl rfl
  case performed => rw [execCiphDec_performed h hlen hmax hds, cipherAnswer_eq_map _ hds hlen]
  case refused =>
    rw [← failureCode_cipherChecks]
    exact operate_of_failing h (cipherChecks_pass_iff s) hbad _ _

/-- Settles O30: by the checks of `CIPH.ENC` and the output byte by byte. -/
theorem ciphEncAppliesKeystream : Obligations.CiphEncAppliesKeystream := by
  refine ⟨?decoded, fun s h hlen hmax hds => ?performed, fun s h hbad => ?refused⟩
  case decoded => exact decode_of_encode_eq (i := .ciphEnc) rfl rfl
  case performed => rw [execCiphEnc_performed h hlen hmax hds, cipherAnswer_eq_map _ hds hlen]
  case refused =>
    rw [← failureCode_cipherChecks]
    exact operate_of_failing h (cipherChecks_pass_iff s) hbad _ _

/-- Settles O50: either answer is again as many bytes, and the opposite sign takes it back. -/
theorem cipherDirectionsAreInverse : Obligations.CipherDirectionsAreInverse := by
  intro s h hlen hmax hds hlast
  have hlen2 : 2 ≤ s.payload.length := by omega
  have hlenOut (sign : Int) := length_cipherAnswer sign hds hlen2
  have hdsOut (sign : Int) := digitsBelow_cipherAnswer sign hds hlen2
  have hback (sign : Int) := cipherAnswer_neg_cipherAnswer sign hds hlen hlast
  refine ⟨⟨_, execCiphEnc_performed h hlen2 hmax hds, fun u hu hpayload => ?decOfEnc⟩,
    ⟨_, execCiphDec_performed h hlen2 hmax hds, fun u hu hpayload => ?encOfDec⟩⟩
  case decOfEnc =>
    rw [execCiphDec_performed hu (by rwa [hpayload, hlenOut]) (by rwa [hpayload, hlenOut]) (hpayload ▸ hdsOut 1),
      hpayload, hback 1]
  case encOfDec =>
    have hdec : cipherAnswer 1 (cipherAnswer (-1) s.payload) = s.payload := hback (-1)
    rw [execCiphEnc_performed hu (by rwa [hpayload, hlenOut]) (by rwa [hpayload, hlenOut]) (hpayload ▸ hdsOut (-1)),
      hpayload, hdec]

end Machine
end Sys2Proof
end

section
/-!
PROOFS. The Checksum: its fold in closed form, its sum by index, what each of its operations does and refuses, and the
streaming operations against the whole (spec/45_checksum.md rules R180 to R189).
-/

namespace Sys2Proof

/-- The word of an operation whose one operand is field `C`, as one number. -/
theorem commandWord_operandC (opc c : Nat) : commandWord opc 0 0 c = BitVec.ofNat 32 (opc * 2 ^ 24 + c) := by
  simp [commandWord]

namespace Machine

/-! ## The fold (R182, R189) -/

/-- One round of either folding loop: the high half added into the low `k` bits (R182). -/
def addHalves (k a : Nat) : Nat := (a >>> k) + (a &&& (2 ^ k - 1))

/-- A folding loop to `k` bits (R182). -/
def foldLoop (k : Nat) : Nat → Nat → Nat
  | 0, a => a
  | fuel + 1, a => if 2 ^ k - 1 < a then foldLoop k fuel (addHalves k a) else a

theorem fold16_eq_foldLoop (fuel a : Nat) : fold16 fuel a = foldLoop 16 fuel a := by
  induction fuel generalizing a with
  | zero => rfl
  | succ fuel ih =>
    rw [fold16, ih]
    rfl

theorem fold8_eq_foldLoop (fuel a : Nat) : fold8 fuel a = foldLoop 8 fuel a := by
  induction fuel generalizing a with
  | zero => rfl
  | succ fuel ih =>
    rw [fold8, ih]
    rfl

section Loop

variable {k : Nat}

theorem addHalves_eq (k a : Nat) : addHalves k a = a / 2 ^ k + a % 2 ^ k := by
  rw [addHalves, Nat.shiftRight_eq_div_pow, Nat.and_two_pow_sub_one_eq_mod]

/-- A round that is taken decreases the sum (R182). -/
theorem addHalves_lt (hk : 1 ≤ k) {a : Nat} (ha : 2 ^ k ≤ a) : addHalves k a < a := by
  have hpow : 1 < 2 ^ k := Nat.one_lt_two_pow (by omega)
  have hhigh : 0 < a / 2 ^ k := Nat.div_pos ha (Nat.two_pow_pos k)
  have hgrows : 1 * (a / 2 ^ k) < 2 ^ k * (a / 2 ^ k) := Nat.mul_lt_mul_of_pos_right hpow hhigh
  have hsplit := Nat.div_add_mod a (2 ^ k)
  rw [addHalves_eq]
  omega

theorem addHalves_eq_zero_iff (k a : Nat) : addHalves k a = 0 ↔ a = 0 := by
  rw [addHalves_eq, Nat.add_eq_zero_iff]
  refine ⟨fun ⟨hhigh, hlow⟩ => ?_, fun h => by simp [h]⟩
  rw [← Nat.div_add_mod a (2 ^ k), hhigh, hlow, Nat.mul_zero]

/-- `2 ^ k` is 1 modulo 255 for both loops, so a round keeps the residue (R189). -/
theorem addHalves_modEq (hk : 2 ^ k ≡ 1 [MOD 255]) (a : Nat) : addHalves k a ≡ a [MOD 255] := by
  calc addHalves k a = 1 * (a / 2 ^ k) + a % 2 ^ k := by rw [addHalves_eq, Nat.one_mul]
    _ ≡ 2 ^ k * (a / 2 ^ k) + a % 2 ^ k [MOD 255] := (hk.symm.mul_right _).add_right _
    _ = a := Nat.div_add_mod a (2 ^ k)

theorem foldedSum_congr {a b : Nat} (hzero : a = 0 ↔ b = 0) (hmod : a ≡ b [MOD 255]) : foldedSum a = foldedSum b := by
  unfold Nat.ModEq at hmod
  unfold foldedSum
  split <;> split <;> omega

theorem foldedSum_of_lt {a : Nat} (h : a < 256) : foldedSum a = a := by
  unfold foldedSum
  split <;> omega

theorem foldedSum_lt (a : Nat) : foldedSum a < 256 := by
  unfold foldedSum
  split <;> omega

theorem foldedSum_foldLoop (hk : 2 ^ k ≡ 1 [MOD 255]) (fuel a : Nat) :
    foldedSum (foldLoop k fuel a) = foldedSum a := by
  induction fuel generalizing a with
  | zero => rfl
  | succ fuel ih =>
    rw [foldLoop]
    split
    · rw [ih, foldedSum_congr (addHalves_eq_zero_iff k a) (addHalves_modEq hk a)]
    · rfl

/-- The loop ends: as many rounds as the sum are enough. -/
theorem foldLoop_lt (hk : 1 ≤ k) {fuel a : Nat} (h : a ≤ fuel) : foldLoop k fuel a < 2 ^ k := by
  have hpos := Nat.two_pow_pos k
  induction fuel generalizing a with
  | zero => rw [foldLoop]; omega
  | succ fuel ih =>
    rw [foldLoop]
    split
    case isTrue hover =>
      have := addHalves_lt hk (a := a) (by omega)
      exact ih (by omega)
    case isFalse => omega

end Loop

/-- The fold in closed form (R189): both loops keep the folded sum, and what the second leaves is its own. -/
theorem fold_eq_foldedSum (a : Nat) : fold a = foldedSum a := by
  have hlt : fold a < 256 := (fold8_eq_foldLoop _ _).trans_lt (foldLoop_lt (by decide) le_rfl)
  rw [← foldedSum_of_lt hlt, fold, fold8_eq_foldLoop, foldedSum_foldLoop (by decide), fold16_eq_foldLoop,
    foldedSum_foldLoop (by decide)]

/-- Settles O51: the closed form of both loops. -/
theorem foldHasClosedForm : Obligations.FoldHasClosedForm :=
  fold_eq_foldedSum

/-- The complement of a byte (R183). -/
theorem xor_byteMask {v : Nat} (hv : v < 256) : v ^^^ 0xFF = 255 - v := by
  have hnot := congrArg BitVec.toNat (BitVec.xor_allOnes (x := BitVec.ofNat 8 v))
  rwa [BitVec.toNat_xor, BitVec.toNat_not, BitVec.toNat_ofNat, Nat.mod_eq_of_lt hv] at hnot

theorem fold_xor_eq (a : Nat) : fold a ^^^ 0xFF = 255 - foldedSum a := by
  rw [fold_eq_foldedSum, xor_byteMask (foldedSum_lt a)]

/-! ## The sum (R181) -/

theorem checksum_eq (code : List Nat) : checksum code = 255 - foldedSum (sumBytes code) :=
  fold_xor_eq _

/-- The bytes after byte 0 by index: the pairs, and for an odd number of them the last byte alone. -/
def indexedPairs (bs : List Nat) : Nat :=
  (∑ k ∈ Finset.range (bs.length / 2), (bs.getD (2 * k) 0 + 256 * bs.getD (2 * k + 1) 0))
    + (if bs.length % 2 = 1 then bs.getD (bs.length - 1) 0 else 0)

/-- The last byte of a sequence, counted with and without a byte before it. -/
theorem getD_cons_length (b : Nat) {rest : List Nat} (h : rest.length % 2 = 1) :
    (b :: rest).getD rest.length 0 = rest.getD (rest.length - 1) 0 := by
  cases rest with
  | nil => exact absurd h (by decide)
  | cons c rest => rfl

theorem indexedPairs_cons_cons (b c : Nat) (rest : List Nat) :
    indexedPairs (b :: c :: rest) = (b + 256 * c) + indexedPairs rest := by
  have hhalf : (b :: c :: rest).length / 2 = rest.length / 2 + 1 := Nat.add_div_right rest.length Nat.two_pos
  have hparity : (b :: c :: rest).length % 2 = rest.length % 2 := Nat.add_mod_right rest.length 2
  rw [indexedPairs, indexedPairs, hhalf, hparity, Finset.sum_range_succ', Nat.add_comm (Finset.sum _ _), Nat.add_assoc]
  congr 2
  split
  case isTrue h => exact getD_cons_length c h
  case isFalse => rfl

theorem sumPairs_eq_indexedPairs (bs : List Nat) : sumPairs bs = indexedPairs bs := by
  induction bs using sumPairs.induct with
  | case1 => rfl
  | case2 b => simp [sumPairs, indexedPairs]
  | case3 b c rest ih => rw [sumPairs, ih, indexedPairs_cons_cons]

theorem indexedSum_cons (b : Nat) (rest : List Nat) : indexedSum (b :: rest) = b + indexedPairs rest := by
  have hparity : (rest.length + 1) % 2 = 0 ↔ rest.length % 2 = 1 := by omega
  rw [indexedSum, indexedPairs, Nat.add_assoc]
  simp only [List.length_cons, Nat.add_sub_cancel, List.getD_cons_zero, List.getD_cons_succ, hparity]
  split
  case isTrue h => rw [getD_cons_length b h]
  case isFalse => rfl

/-- The sum by index (R181). -/
theorem sumBytes_eq_indexedSum (code : List Nat) : sumBytes code = indexedSum code := by
  cases code with
  | nil => rfl
  | cons b rest => rw [sumBytes, sumPairs_eq_indexedPairs, indexedSum_cons]

/-! ## The Checksum's registers (R185, R186) -/

/-- Below 256 the held byte and the one above it do not overlap. -/
theorem Checksum.take_eq_afterByte {c : Checksum} (h : c.pend < 256) (byte : Nat) : c.take byte = c.afterByte byte := by
  obtain ⟨valid, sum, ph, pend⟩ := c
  cases ph with
  | first => rfl
  | lo => rfl
  | hi =>
    have hpair : pairValue pend byte = pend + 256 * byte := pairValue_eq h byte
    rw [Checksum.take, Checksum.afterByte, hpair]

theorem Checksum.wouldOverflow_eq_false {c : Checksum} (h : c.pend < 256) {byte : Nat} :
    c.wouldOverflow byte = false ↔ (c.afterByte byte).sum < 2 ^ 32 := by
  rw [Checksum.wouldOverflow, decide_eq_false_iff_not, Nat.not_le, Checksum.take_eq_afterByte h]

/-- The sum that `CHK.FIN` folds: a held byte is added alone (R186). -/
def Checksum.total (c : Checksum) : Nat := if c.ph = .hi then c.sum + c.pend else c.sum

theorem Checksum.finish_eq (c : Checksum) : c.finish = 255 - foldedSum c.total :=
  fold_xor_eq _

/-! ## The operations (R184 to R186, R188) -/

/-- `CHK.UPD` is performed on a valid Checksum, without a payload, when the sum stays below `2^32` (R185). -/
theorem chkUpd_checks (byte : Nat) {s : State} (hinv : s.chk.Inv) :
    (∀ c ∈ [(!s.chk.valid, FaultCode.notReady), (s.payloadGiven, .badLength), (s.chk.wouldOverflow byte, .overflow)],
      c.1 = false) ↔
    s.chk.valid = true ∧ s.payload = [] ∧ (s.chk.afterByte byte).sum < 2 ^ 32 := by
  simp only [List.forall_mem_cons, Bool.not_eq_false', State.payloadGiven_eq_false, List.not_mem_nil,
    IsEmpty.forall_iff, implies_true, and_true]
  refine and_congr_right fun hv => and_congr_right fun _ => ?_
  exact Checksum.wouldOverflow_eq_false (hinv hv).2

/-- `CHK.FIN` is performed on a valid Checksum that has taken a byte, without a payload (R186). -/
theorem chkFin_checks (s : State) :
    (∀ c ∈ [(!s.chk.valid, FaultCode.notReady), (s.payloadGiven, .badLength),
      (decide (s.chk.ph = .first), .badLength)], c.1 = false) ↔
    s.chk.valid = true ∧ s.payload = [] ∧ s.chk.ph ≠ .first := by
  simp [State.payloadGiven_eq_false]

theorem chksumLen_check_eq_true {s : State} :
    (decide (s.payloadLen < 1) || Config.exceedsMaxLen s.payloadLen) = true ↔
      s.payload.length < 1 ∨ ¬ AtMostMaxLen s.payload.length := by
  rw [Bool.or_eq_true, decide_eq_true_iff, AtMostMaxLen, Bool.not_eq_false]
  rfl

/-- `CHKSUM` is performed on at least one and at most `MAXLEN` bytes (R188). -/
theorem chksum_checks (s : State) :
    (∀ c ∈ [(decide (s.payloadLen < 1) || Config.exceedsMaxLen s.payloadLen, FaultCode.badLength),
      (digitOver 8 s.payload, .digitRange)], c.1 = false) ↔
    1 ≤ s.payload.length ∧ AtMostMaxLen s.payload.length ∧ DigitsBelow 8 s.payload := by
  simp only [List.forall_mem_cons, ← Bool.not_eq_true, chksumLen_check_eq_true, digitOver_eq_true, not_or, not_not,
    Nat.not_lt, and_assoc, List.not_mem_nil, IsEmpty.forall_iff, implies_true, and_true]

section Performed

variable {s : State}

/-- `CHK.INIT` has the one check of `GEN.SEED`, that there is no payload. -/
theorem execChkInit_performed (h : s.faultCode = 0#8) (hp : s.payload = []) :
    exec .chkInit s = .next ((s.setChk Checksum.init).answered []) :=
  operate_of_passing h (genSeed_checks s) hp _ _

theorem execChkUpd_performed (h : s.faultCode = 0#8) (hv : s.chk.valid = true) (hp : s.payload = [])
    (hinv : s.chk.Inv) {byte : Nat} (hfits : (s.chk.afterByte byte).sum < 2 ^ 32) :
    exec (.chkUpd byte) s = .next ((s.setChk (s.chk.afterByte byte)).answered []) := by
  rw [← Checksum.take_eq_afterByte (hinv hv).2]
  exact operate_of_passing h (chkUpd_checks byte hinv) ⟨hv, hp, hfits⟩ _ _

theorem execChkFin_performed (h : s.faultCode = 0#8) (hv : s.chk.valid = true) (hp : s.payload = [])
    (hph : s.chk.ph ≠ .first) :
    exec .chkFin s = .next (s.closeChk.answered [toWord (255 - foldedSum s.chk.total)]) := by
  rw [← Checksum.finish_eq]
  exact operate_of_passing h (chkFin_checks s) ⟨hv, hp, hph⟩ _ _

theorem execChksum_performed (h : s.faultCode = 0#8) (hlen : 1 ≤ s.payload.length)
    (hmax : AtMostMaxLen s.payload.length) (hds : DigitsBelow 8 s.payload) :
    exec .chksum s = .next (s.answered [toWord (255 - foldedSum (sumBytes (s.payload.map BitVec.toNat)))]) := by
  rw [← checksum_eq]
  exact operate_of_passing h (chksum_checks s) ⟨hlen, hmax, hds⟩ _ _

end Performed

/-- Settles O31: by the one check of `CHK.INIT`. -/
theorem chkInitStartsChecksum : Obligations.ChkInitStartsChecksum := by
  refine ⟨?decoded, fun s h hp => ?performed, fun s h hp => ?refused⟩
  case decoded => exact decode_of_encode_eq (i := .chkInit) rfl rfl
  case performed => exact execChkInit_performed h hp
  case refused => exact operate_of_failing h (genSeed_checks s) hp _ _

/-- Settles O32: by the checks of `CHK.UPD` and the three phases. -/
theorem chkUpdTakesByte : Obligations.ChkUpdTakesByte := by
  refine ⟨fun b hb => ?decoded, fun b s _ h hv hp hinv hfits => ?performed, fun b s _ h hinv hbad => ?refused⟩
  case decoded => exact decode_of_encode_eq (decide_eq_true hb) (commandWord_operandC 0x51 b)
  case performed => exact execChkUpd_performed h hv hp hinv hfits
  case refused =>
    refine (operate_of_failing h (chkUpd_checks b hinv) hbad _ _).trans ?_
    simp only [failureCode, Bool.not_eq_true', State.payloadGiven_eq_true, FaultCode.code]

/-- Settles O33: by the checks of `CHK.FIN`; what the closed Checksum holds is what `State.closeChk` draws. -/
theorem chkFinReturnsChecksum : Obligations.ChkFinReturnsChecksum := by
  refine ⟨?decoded, fun s h hv hp hph => ?performed, fun s h hbad => ?refused⟩
  case decoded => exact decode_of_encode_eq (i := .chkFin) rfl rfl
  case performed =>
    exact ⟨Checksum.unspecified s.freeDraws, s.freeDraws + 1, rfl, execChkFin_performed h hv hp hph⟩
  case refused =>
    refine (operate_of_failing h (chkFin_checks s) hbad _ _).trans ?_
    simp only [failureCode, Bool.not_eq_true', FaultCode.code, ite_self]

/-- Settles O34: by the checks of `CHKSUM` and the sum by index. -/
theorem chksumIsFoldedComplementedSum : Obligations.ChksumIsFoldedComplementedSum := by
  refine ⟨?decoded, fun s h hlen hmax hds => ?performed, fun s h hbad => ?refused⟩
  case decoded => exact decode_of_encode_eq (i := .chksum) rfl rfl
  case performed => rw [execChksum_performed h hlen hmax hds, sumBytes_eq_indexedSum]
  case refused =>
    refine (operate_of_failing h (chksum_checks s) hbad _ _).trans ?_
    simp only [failureCode, chksumLen_check_eq_true, FaultCode.code]

/-! ## The streaming operations (R187) -/

/-- The Checksum after `CHK.INIT` and `CHK.UPD` of each of these bytes. -/
def Checksum.holding (code : List Nat) : Checksum := code.foldl Checksum.afterByte Checksum.init

section Streaming

variable {code : List Nat}

theorem Checksum.holding_concat (code : List Nat) (b : Nat) :
    Checksum.holding (code ++ [b]) = (Checksum.holding code).afterByte b :=
  List.foldl_append

theorem Checksum.afterByte_valid (c : Checksum) (b : Nat) : (c.afterByte b).valid = c.valid := by
  unfold Checksum.afterByte
  split <;> rfl

theorem Checksum.afterByte_ph_ne_first (c : Checksum) (b : Nat) : (c.afterByte b).ph ≠ .first := by
  unfold Checksum.afterByte
  split <;> nofun

/-- One byte adds at most a pair of two bytes 255, and what it holds is a byte. -/
theorem Checksum.afterByte_bounds {c : Checksum} (hpend : c.pend < 256) {b : Nat} (hb : b < 256) :
    (c.afterByte b).sum ≤ c.sum + 65535 ∧ (c.afterByte b).pend < 256 := by
  unfold Checksum.afterByte
  split <;> dsimp only <;> omega

theorem Checksum.holding_valid (code : List Nat) : (Checksum.holding code).valid = true := by
  induction code using List.reverseRecOn with
  | nil => rfl
  | append_singleton code b ih => rw [holding_concat, afterByte_valid, ih]

theorem Checksum.holding_ph_ne_first (hlen : 1 ≤ code.length) : (Checksum.holding code).ph ≠ .first := by
  cases code using List.reverseRecOn with
  | nil => exact absurd hlen (by decide)
  | append_singleton code b => exact holding_concat code b ▸ afterByte_ph_ne_first _ b

theorem Checksum.holding_bounds (hcode : ∀ b ∈ code, b < 256) :
    (Checksum.holding code).sum ≤ 65535 * code.length ∧ (Checksum.holding code).pend < 256 := by
  induction code using List.reverseRecOn with
  | nil => decide
  | append_singleton code b ih =>
    obtain ⟨hcode, hb⟩ := List.forall_mem_append.mp hcode
    obtain ⟨hsum, hpend⟩ := ih hcode
    obtain ⟨hsum', hpend'⟩ := afterByte_bounds hpend (hb b (List.mem_singleton_self b))
    rw [holding_concat, List.length_append, List.length_singleton]
    exact ⟨by omega, hpend'⟩

/-- Within 65536 bytes the sum stays below `2^32` (R28). -/
theorem Checksum.holding_sum_lt (hcode : ∀ b ∈ code, b < 256) (hlen : code.length ≤ 65536) :
    (Checksum.holding code).sum < 2 ^ 32 := by
  have := (holding_bounds hcode).1
  omega

theorem Checksum.holding_inv (hcode : ∀ b ∈ code, b < 256) (hlen : code.length ≤ 65536) :
    (Checksum.holding code).Inv :=
  fun _ => ⟨holding_sum_lt hcode hlen, (holding_bounds hcode).2⟩

/-- From the phase `LO` on, the bytes pair off as in R181. -/
theorem Checksum.total_foldl_afterByte {c : Checksum} (hph : c.ph = .lo) (bs : List Nat) :
    (bs.foldl Checksum.afterByte c).total = c.sum + sumPairs bs := by
  induction bs using sumPairs.induct generalizing c with
  | case1 => simp [total, sumPairs, hph]
  | case2 b => simp [total, sumPairs, afterByte, hph]
  | case3 b b' rest ih =>
    have hpair : (c.afterByte b).afterByte b' =
        { valid := c.valid, sum := c.sum + (b + 256 * b'), ph := .lo, pend := b } := by
      simp only [afterByte, hph]
    rw [List.foldl_cons, List.foldl_cons, hpair, ih rfl, sumPairs, Nat.add_assoc]

/-- Byte 0 is the first sum, and the others pair off. -/
theorem Checksum.total_holding (code : List Nat) : (Checksum.holding code).total = sumBytes code := by
  cases code with
  | nil => rfl
  | cons b rest => exact total_foldl_afterByte rfl rest

/-- A Checksum that holds these bytes, in an unfaulted state. -/
structure ChecksumAt (code : List Nat) (s : State) : Prop where
  unfaulted : s.faultCode = 0#8
  chk : s.chk = Checksum.holding code

theorem ChecksumAt.latched (s : State) (w : Word) (p : List Word) (rest : List HostMove) (h : ChecksumAt code s) :
    ChecksumAt code (s.latched w p rest) := { h with }

theorem leads_chkInit {out : List Response} : Leads (Unfaulted out) [issue .chkInit []] (ChecksumAt []) := by
  refine Leads.issue rfl Unfaulted.latched ?_
  rintro s ⟨hunfaulted, -⟩ hp
  exact ⟨_, execChkInit_performed hunfaulted hp, hunfaulted, rfl⟩

theorem leads_chkUpd {b : Nat} (hcode : ∀ x ∈ code ++ [b], x < 256) (hlen : code.length + 1 ≤ 65536) :
    Leads (ChecksumAt code) [issue (.chkUpd b) []] (ChecksumAt (code ++ [b])) := by
  obtain ⟨hbefore, hb⟩ := List.forall_mem_append.mp hcode
  refine Leads.issue (decide_eq_true (hb b (List.mem_singleton_self b))) ChecksumAt.latched ?_
  rintro s ⟨hunfaulted, hchk⟩ hp
  have hafter : s.chk.afterByte b = Checksum.holding (code ++ [b]) := by rw [hchk, Checksum.holding_concat]
  have hinv : s.chk.Inv :=
    hchk ▸ Checksum.holding_inv hbefore (Nat.le_of_succ_le hlen)
  have hfits : (s.chk.afterByte b).sum < 2 ^ 32 := 
    hafter ▸ Checksum.holding_sum_lt hcode (List.length_append ▸ hlen)
  exact ⟨_, execChkUpd_performed hunfaulted (hchk ▸ Checksum.holding_valid code) hp hinv hfits, hunfaulted, hafter⟩

theorem leads_chkUpds (hcode : ∀ b ∈ code, b < 256) (hlen : code.length ≤ 65536) :
    Leads (ChecksumAt []) (code.map fun b => issue (.chkUpd b) []) (ChecksumAt code) := by
  induction code using List.reverseRecOn with
  | nil => exact Leads.nil _
  | append_singleton code b ih =>
    rw [List.length_append, List.length_singleton] at hlen
    rw [List.map_append]
    exact (ih (List.forall_mem_append.mp hcode).1 (Nat.le_of_succ_le hlen)).append (leads_chkUpd hcode hlen)

theorem leads_chkFin (hlen : 1 ≤ code.length) :
    Leads (ChecksumAt code) [issue .chkFin []] fun t =>
      t.lastResponse = some (okResponse [toWord (255 - foldedSum (sumBytes code))]) := by
  refine Leads.issue rfl ChecksumAt.latched ?_
  rintro s ⟨hunfaulted, hchk⟩ hp
  refine ⟨_, execChkFin_performed hunfaulted (hchk ▸ Checksum.holding_valid code) hp
    (hchk ▸ Checksum.holding_ph_ne_first hlen), ?_⟩
  rw [hchk, Checksum.total_holding]
  exact State.lastResponse_eq rfl

theorem leads_chksum {out : List Response} (hcode : ∀ b ∈ code, b < 256) (hlen : 1 ≤ code.length)
    (hmax : AtMostMaxLen code.length) :
    Leads (Unfaulted out) [issue .chksum (code.map toWord)] fun t =>
      t.lastResponse = some (okResponse [toWord (255 - foldedSum (sumBytes code))]) := by
  refine Leads.issue rfl Unfaulted.latched ?_
  rintro s ⟨hunfaulted, -⟩ hp
  have hlength : s.payload.length = code.length := by rw [hp, List.length_map]
  have hbytes : s.payload.map BitVec.toNat = code := by rw [hp]; exact map_toNat_seqResult hcode
  refine ⟨_, execChksum_performed hunfaulted (hlength ▸ hlen) (hlength ▸ hmax) (hp ▸ digitsBelow_seqResult hcode), ?_⟩
  rw [hbytes]
  exact State.lastResponse_eq rfl

end Streaming

/-- Settles O52: both runs answer with the complement of the folded sum of the same bytes. -/
theorem streamingChecksumEqualsWhole : Obligations.StreamingChecksumEqualsWhole := by
  intro s code h hlen hmany hcode hmax
  have hstream := (leads_chkInit (out := s.outbox)).append (leads_chkUpds hcode hmany)
  obtain ⟨t, hrun, hlast⟩ := Leads.runMoves (s := s) (hstream.append (leads_chkFin hlen)) ⟨h, rfl⟩
  obtain ⟨u, hrun', hlast'⟩ := Leads.runMoves (s := s) (leads_chksum hcode hlen hmax) ⟨h, rfl⟩
  exact ⟨t, u, _, hrun, hrun', hlast, hlast'⟩

end Machine
end Sys2Proof
end

section
/-!
PROOFS. The CRC32: its table step as eight bitwise steps, what each of its operations does and refuses, and the
streaming operations against the whole (spec/46_crc32.md rules R195 to R203).
-/

namespace Sys2Proof
namespace Machine

/-! ## The table step and the bitwise step (R195, R196, R202) -/

/-- One bitwise step without a case on the whole word: the polynomial is XORed in or not. -/
theorem crcShift_eq (c : Word) : crcShift c = (c >>> 1) ^^^ (if c.getLsbD 0 then 0xEDB88320#32 else 0#32) := by
  rw [crcShift]
  split
  · rfl
  · rw [BitVec.xor_zero]

theorem crcBitwiseStep_eq_repeat (crc : Word) (b : Nat) :
    crcBitwiseStep crc b = Nat.repeat crcShift 8 (crc ^^^ toWord b) := by
  rw [crcBitwiseStep, funext crcShift_eq]

/-- The bitwise step is linear over XOR, which is what makes a table of 256 entries enough. -/
theorem crcShift_xor (a b : Word) : crcShift (a ^^^ b) = crcShift a ^^^ crcShift b := by
  have hpoly (p q : Bool) (w : Word) :
      (if p ^^ q then w else 0#32) = (if p then w else 0#32) ^^^ (if q then w else 0#32) := by
    cases p <;> cases q <;> simp
  rw [crcShift_eq, BitVec.ushiftRight_xor_distrib, BitVec.getLsbD_xor, hpoly, crcShift_eq, crcShift_eq]
  ac_rfl

theorem repeat_crcShift_xor (n : Nat) (a b : Word) :
    Nat.repeat crcShift n (a ^^^ b) = Nat.repeat crcShift n a ^^^ Nat.repeat crcShift n b := by
  induction n with
  | zero => rfl
  | succ n ih => rw [Nat.repeat, ih, crcShift_xor]; rfl

/-- While the bits shifted out are 0 the polynomial plays no part. -/
theorem repeat_crcShift_of_low_zero {c : Word} (n : Nat) (h : ∀ i < n, c.getLsbD i = false) :
    Nat.repeat crcShift n c = c >>> n := by
  induction n with
  | zero => rfl
  | succ n ih =>
    have hout : (c >>> n).getLsbD 0 = false := by
      rw [BitVec.getLsbD_ushiftRight]
      exact h n (Nat.lt_succ_self n)
    rw [Nat.repeat, ih fun i hi => h i (Nat.lt_succ_of_lt hi), crcShift, hout, BitVec.shiftRight_add]
    rfl

/-- A register value is its low byte and the 24 bits above it. -/
theorem lowByte_xor_upperBits (c : Word) : (c &&& 0xFF#32) ^^^ ((c >>> 8) <<< 8) = c := by
  ext i hi
  have hmask : (0xFF#32)[i] = decide (i < 8) := Nat.testBit_two_pow_sub_one 8 i
  rcases Nat.lt_or_ge i 8 with hlow | hhigh
  · simp [hmask, hlow]
  · simp [hmask, Nat.not_lt.mpr hhigh, Nat.add_sub_cancel' hhigh, BitVec.getLsbD_eq_getElem hi]

/-- The register with a byte XORed in is the index of the table entry and the 24 bits above it. -/
theorem xor_byte_eq (crc : Word) (b : Nat) :
    crc ^^^ toWord b = toWord ((crc.toNat &&& 0xFF) ^^^ b) ^^^ ((crc >>> 8) <<< 8) := by
  have hindex : toWord ((crc.toNat &&& 0xFF) ^^^ b) = (crc &&& 0xFF#32) ^^^ toWord b := by simp [toWord]
  calc crc ^^^ toWord b
      = (crc &&& 0xFF#32) ^^^ ((crc >>> 8) <<< 8) ^^^ toWord b := by rw [lowByte_xor_upperBits]
    _ = (crc &&& 0xFF#32) ^^^ toWord b ^^^ ((crc >>> 8) <<< 8) := by ac_rfl
    _ = _ := by rw [hindex]

/-- The upper bits reach the end of the eight shifts unchanged. -/
theorem repeat_crcShift_upperBits (c : Word) : Nat.repeat crcShift 8 ((c >>> 8) <<< 8) = c >>> 8 := by
  rw [repeat_crcShift_of_low_zero 8 fun i hi => by simp [hi]]
  ext i hi
  simpa [Nat.add_comm i 8] using BitVec.lt_of_getLsbD

/-- One table step is one bitwise step of eight shifts: the low byte goes through the table, and the bits above it are
only shifted. -/
theorem crcStep_eq_crcBitwiseStep (crc : Word) (b : Nat) : crcStep crc b = crcBitwiseStep crc b := by
  rw [crcBitwiseStep_eq_repeat, xor_byte_eq, repeat_crcShift_xor, repeat_crcShift_upperBits]
  rfl

/-- The CRC of R196 through the table is that of the bitwise form (R202). -/
theorem crcOf_eq_foldl_crcBitwiseStep (bytes : List Nat) :
    crcOf bytes = bytes.foldl crcBitwiseStep 0xFFFFFFFF#32 ^^^ 0xFFFFFFFF#32 := by
  rw [crcOf, funext₂ crcStep_eq_crcBitwiseStep]
  rfl

/-- Settles O54: the byte needs no bound, for the index of the table entry is cut to a word. -/
theorem crcTableStepEqualsBitwiseStep : Obligations.CrcTableStepEqualsBitwiseStep :=
  fun crc b _ => crcStep_eq_crcBitwiseStep crc b

/-! ## The operations (R197 to R201) -/

/-- `CRC.UPD` and `CRC.FIN` are performed on a valid CRC unit, without a payload. -/
theorem crcValid_checks (s : State) :
    (∀ c ∈ [(!s.crc.valid, FaultCode.notReady), (s.payloadGiven, .badLength)], c.1 = false) ↔
    s.crc.valid = true ∧ s.payload = [] := by
  simp [State.payloadGiven_eq_false]

theorem failureCode_crcValid (s : State) :
    failureCode [(!s.crc.valid, .notReady), (s.payloadGiven, .badLength)] =
      if s.crc.valid = false then 5#8 else 3#8 := by
  simp only [failureCode, Bool.not_eq_true', FaultCode.code]

/-- `CRC32` and `REVIVE` are performed on at most `MAXLEN` bytes. -/
theorem crcChecks_pass_iff (s : State) :
    (∀ c ∈ crcChecks s, c.1 = false) ↔ AtMostMaxLen s.payload.length ∧ DigitsBelow 8 s.payload := by
  simp [crcChecks, digitOver_eq_false, State.payloadLen]

theorem failureCode_crcChecks (s : State) :
    failureCode (crcChecks s) = if ¬ AtMostMaxLen s.payload.length then 3#8 else 4#8 := by
  simp only [crcChecks, failureCode, FaultCode.code, State.payloadLen, Bool.not_eq_false]

section Performed

variable {s : State}

/-- `CRC.INIT` has the one check of `GEN.SEED`, that there is no payload. -/
theorem execCrcInit_performed (h : s.faultCode = 0#8) (hp : s.payload = []) :
    exec .crcInit s = .next ((s.setCrc Crc.init).answered []) :=
  operate_of_passing h (genSeed_checks s) hp _ _

theorem execCrcUpd_performed (h : s.faultCode = 0#8) (hv : s.crc.valid = true) (hp : s.payload = []) (b : Nat) :
    exec (.crcUpd b) s = .next ((s.setCrc { valid := true, r := crcStep s.crc.r b }).answered []) := by
  rw [← hv]
  exact operate_of_passing h (crcValid_checks s) ⟨hv, hp⟩ _ _

theorem execCrcFin_performed (h : s.faultCode = 0#8) (hv : s.crc.valid = true) (hp : s.payload = []) :
    exec .crcFin s = .next (s.closeCrc.answered [crcFinal s.crc.r]) :=
  operate_of_passing h (crcValid_checks s) ⟨hv, hp⟩ _ _

theorem execCrc32_performed (h : s.faultCode = 0#8) (hmax : AtMostMaxLen s.payload.length)
    (hds : DigitsBelow 8 s.payload) :
    exec .crc32 s = .next (s.answered [crcOf (s.payload.map BitVec.toNat)]) :=
  operate_of_passing h (crcChecks_pass_iff s) ⟨hmax, hds⟩ _ _

theorem execRevive_performed (h : s.faultCode = 0#8) (hmax : AtMostMaxLen s.payload.length)
    (hds : DigitsBelow 8 s.payload) :
    exec .revive s = .next (s.answered [crcOf (s.payload.map BitVec.toNat) &&& 0x3FFFFFFF#32]) :=
  operate_of_passing h (crcChecks_pass_iff s) ⟨hmax, hds⟩ _ _

end Performed

/-- Settles O35: by the one check of `CRC.INIT`. -/
theorem crcInitStartsCrc : Obligations.CrcInitStartsCrc := by
  refine ⟨?decoded, fun s h hp => ?performed, fun s h hp => ?refused⟩
  case decoded => exact decode_of_encode_eq (i := .crcInit) rfl rfl
  case performed => exact execCrcInit_performed h hp
  case refused => exact operate_of_failing h (genSeed_checks s) hp _ _

/-- Settles O36: by the checks of `CRC.UPD`; the low byte of the register is its remainder by 256. -/
theorem crcUpdTakesByte : Obligations.CrcUpdTakesByte := by
  refine ⟨fun b hb => ?decoded, fun b s _ h hv hp => ?performed, fun b s h hbad => ?refused⟩
  case decoded => exact decode_of_encode_eq (decide_eq_true hb) (commandWord_operandC 0x61 b)
  case performed =>
    have hlow : s.crc.r.toNat &&& 0xFF = s.crc.r.toNat % 256 := Nat.and_two_pow_sub_one_eq_mod _ 8
    rw [execCrcUpd_performed h hv hp, crcStep, hlow]
    rfl
  case refused =>
    rw [← failureCode_crcValid]
    exact operate_of_failing h (crcValid_checks s) hbad _ _

/-- Settles O37: by the checks of `CRC.FIN`; what the closed unit holds is what `State.closeCrc` draws. -/
theorem crcFinReturnsCrc : Obligations.CrcFinReturnsCrc := by
  refine ⟨?decoded, fun s h hv hp => ?performed, fun s h hbad => ?refused⟩
  case decoded => exact decode_of_encode_eq (i := .crcFin) rfl rfl
  case performed => exact ⟨Crc.unspecified s.freeDraws, s.freeDraws + 1, rfl, execCrcFin_performed h hv hp⟩
  case refused =>
    rw [← failureCode_crcValid]
    exact operate_of_failing h (crcValid_checks s) hbad _ _

/-- Settles O38: by the checks of `CRC32` and the bitwise form of its CRC. -/
theorem crc32IsReflectedCrc : Obligations.Crc32IsReflectedCrc := by
  refine ⟨?decoded, fun s h hmax hds => ?performed, fun s h hbad => ?refused⟩
  case decoded => exact decode_of_encode_eq (i := .crc32) rfl rfl
  case performed => rw [execCrc32_performed h hmax hds, crcOf_eq_foldl_crcBitwiseStep]
  case refused =>
    rw [← failureCode_crcChecks]
    exact operate_of_failing h (crcChecks_pass_iff s) hbad _ _

/-- Settles O39: by the checks of `REVIVE` and the bitwise form of its CRC. -/
theorem reviveIsLowThirtyBits : Obligations.ReviveIsLowThirtyBits := by
  refine ⟨?decoded, fun s h hmax hds => ?performed, fun s h hbad => ?refused⟩
  case decoded => exact decode_of_encode_eq (i := .revive) rfl rfl
  case performed => rw [execRevive_performed h hmax hds, crcOf_eq_foldl_crcBitwiseStep]
  case refused =>
    rw [← failureCode_crcChecks]
    exact operate_of_failing h (crcChecks_pass_iff s) hbad _ _

/-! ## The streaming operations (R203) -/

/-- A valid CRC unit that has taken these bytes, in an unfaulted state. -/
structure CrcAt (bytes : List Nat) (s : State) : Prop where
  unfaulted : s.faultCode = 0#8
  crc : s.crc = { valid := true, r := bytes.foldl crcStep 0xFFFFFFFF#32 }

section Streaming

variable {bytes : List Nat} {out : List Response}

theorem CrcAt.latched (s : State) (w : Word) (p : List Word) (rest : List HostMove) (h : CrcAt bytes s) :
    CrcAt bytes (s.latched w p rest) := { h with }

theorem CrcAt.valid {s : State} (h : CrcAt bytes s) : s.crc.valid = true := h.crc ▸ rfl

theorem leads_crcInit : Leads (Unfaulted out) [issue .crcInit []] (CrcAt []) := by
  refine Leads.issue rfl Unfaulted.latched ?_
  rintro s ⟨hunfaulted, -⟩ hp
  exact ⟨_, execCrcInit_performed hunfaulted hp, hunfaulted, rfl⟩

theorem leads_crcUpd {b : Nat} (hb : b < 256) :
    Leads (CrcAt bytes) [issue (.crcUpd b) []] (CrcAt (bytes ++ [b])) := by
  refine Leads.issue (decide_eq_true hb) CrcAt.latched fun s hs hp => ?_
  refine ⟨_, execCrcUpd_performed hs.unfaulted hs.valid hp b, hs.unfaulted, ?_⟩
  rw [List.foldl_concat, hs.crc]
  rfl

theorem leads_crcUpds (hbytes : ∀ b ∈ bytes, b < 256) :
    Leads (CrcAt []) (bytes.map fun b => issue (.crcUpd b) []) (CrcAt bytes) := by
  induction bytes using List.reverseRecOn with
  | nil => exact Leads.nil _
  | append_singleton bytes b ih =>
    obtain ⟨hbefore, hb⟩ := List.forall_mem_append.mp hbytes
    rw [List.map_append]
    exact (ih hbefore).append (leads_crcUpd (hb b (List.mem_singleton_self b)))

theorem leads_crcFin :
    Leads (CrcAt bytes) [issue .crcFin []] fun t => t.lastResponse = some (okResponse [crcOf bytes]) := by
  refine Leads.issue rfl CrcAt.latched fun s hs hp => ?_
  refine ⟨_, execCrcFin_performed hs.unfaulted hs.valid hp, ?_⟩
  rw [hs.crc]
  exact State.lastResponse_eq rfl

/-- Either whole-sequence operation: what it answers is a function of the CRC of its bytes. -/
theorem leads_wholeCrc {i : Instr} (hi : i.WellFormed) {result : Word → Word}
    (hexec : ∀ s : State, s.faultCode = 0#8 → AtMostMaxLen s.payload.length → DigitsBelow 8 s.payload →
      exec i s = .next (s.answered [result (crcOf (s.payload.map BitVec.toNat))]))
    (hbytes : ∀ b ∈ bytes, b < 256) (hmax : AtMostMaxLen bytes.length) :
    Leads (Unfaulted out) [issue i (bytes.map toWord)] fun t =>
      t.lastResponse = some (okResponse [result (crcOf bytes)]) := by
  refine Leads.issue hi Unfaulted.latched ?_
  rintro s ⟨hunfaulted, -⟩ hp
  have hlength : s.payload.length = bytes.length := by rw [hp, List.length_map]
  have helements : s.payload.map BitVec.toNat = bytes := by rw [hp]; exact map_toNat_seqResult hbytes
  refine ⟨_, hexec s hunfaulted (hlength ▸ hmax) (hp ▸ digitsBelow_seqResult hbytes), ?_⟩
  rw [helements]
  exact State.lastResponse_eq rfl

end Streaming

/-- Settles O53: all three runs answer with the CRC of the same bytes, the last one masked. -/
theorem streamingCrcEqualsWhole : Obligations.StreamingCrcEqualsWhole := by
  intro s bytes h hbytes hmax
  have hstream := (leads_crcInit (out := s.outbox)).append (leads_crcUpds hbytes)
  have hcrc32 := leads_wholeCrc (out := s.outbox) (i := .crc32) (result := id) rfl
    (fun _ => execCrc32_performed) hbytes hmax
  have hrevive := leads_wholeCrc (out := s.outbox) (i := .revive) (result := (· &&& 0x3FFFFFFF#32)) rfl
    (fun _ => execRevive_performed) hbytes hmax
  obtain ⟨t, hrun, hlast⟩ := Leads.runMoves (s := s) (hstream.append leads_crcFin) ⟨h, rfl⟩
  obtain ⟨u, hrun', hlast'⟩ := Leads.runMoves (s := s) hcrc32 ⟨h, rfl⟩
  obtain ⟨x, hrun'', hlast''⟩ := Leads.runMoves (s := s) hrevive ⟨h, rfl⟩
  exact ⟨t, u, x, _, hrun, hrun', hrun'', hlast, hlast', hlast''⟩

end Machine
end Sys2Proof
end

section
/-!
PROOFS. The status operation: its first word is the sum of its fields, and what `STAT` answers (spec/47_status.md rules
R210, R211).
-/

namespace Sys2Proof
namespace Machine

/-! ## The first status word (R211) -/

theorem flagBit_eq_toWord (b : Bool) (k : Nat) : flagBit b k = toWord (2 ^ k * b.toNat) := by
  cases b with
  | false => simp [flagBit, toWord]
  | true => exact BitVec.eq_of_toNat_eq (by simp [flagBit, toWord, Nat.shiftLeft_eq])

/-- A flag above every bit of a word is added to it. -/
theorem toWord_or_flagBit {v k : Nat} (hv : v < 2 ^ k) (b : Bool) :
    toWord v ||| flagBit b k = toWord (v + 2 ^ k * b.toNat) := by
  rw [flagBit_eq_toWord, Nat.add_comm, Nat.two_pow_add_eq_or_of_lt hv, Nat.or_comm]
  exact BitVec.ofNat_or.symm

/-- The fields of the first status word do not overlap: each flag stands above the fields before it. -/
theorem State.statusWord_eq (s : State) :
    s.statusWord = toWord (s.faultCode.toNat + 2 ^ 8 * s.rd.valid.toNat + 2 ^ 9 * s.wr.valid.toNat +
      2 ^ 10 * s.gen.valid.toNat + 2 ^ 11 * s.chk.valid.toNat + 2 ^ 12 * s.crc.valid.toNat) := by
  have hcode : s.faultCode.setWidth 32 = toWord s.faultCode.toNat := (BitVec.ofNat_toNat 32 s.faultCode).symm
  have hlt := s.faultCode.isLt
  have hrd := s.rd.valid.toNat_le
  have hwr := s.wr.valid.toNat_le
  have hgen := s.gen.valid.toNat_le
  have hchk := s.chk.valid.toNat_le
  rw [State.statusWord, hcode, toWord_or_flagBit hlt, toWord_or_flagBit (by omega), toWord_or_flagBit (by omega),
    toWord_or_flagBit (by omega), toWord_or_flagBit (by omega)]

/-! ## The operation (R210) -/

theorem decode_eq_stat_iff (w : Word) : decode w = .ok .stat ↔ w = 0#32 :=
  ⟨fun h => (encode_of_decode h).symm, fun h => decode_of_encode_eq rfl h.symm⟩

/-- Without a payload `STAT` has no check that can fail, faulted or not. -/
theorem execStat_performed {s : State} (hp : s.payload = []) :
    exec .stat s = .next (s.answered [s.statusWord, s.fcmd]) := by
  have hgiven := State.payloadGiven_eq_false.mpr hp
  change execStat s = _
  rw [execStat, hgiven]
  rfl

/-- Settles O17: by the word that encodes `STAT` and the sum of the status word's fields. -/
theorem statReturnsRecordAndFlags : Obligations.StatReturnsRecordAndFlags := by
  refine ⟨decode_eq_stat_iff, fun s hp => ?_⟩
  rw [execStat_performed hp, State.statusWord_eq]

end Machine
end Sys2Proof
end

section
/-!
PROOFS. The host's alphabet and password text (spec/48_host_pipeline.md rules R220 to R226) and the flat interchange
form of a Record (R251).
-/

namespace Sys2Proof
namespace Machine

/-! ## The alphabet (R220 to R224) -/

section Alphabet

variable {a b : Char} {i : Symbol}

/-- A text is recognised as the symbol at suit `u` and rank `r`, where there is one. -/
theorem indexOf_eq_ok_iff :
    indexOf a b = .ok i ↔
      ∃ r u, rankChars.idxOf? a.toUpper = some r ∧ suitChars.idxOf? b.toLower = some u ∧ i.val = 13 * u + r := by
  unfold indexOf
  rcases rankChars.idxOf? a.toUpper with _ | r
  case none => simp
  rcases suitChars.idxOf? b.toLower with _ | u
  case none => simp
  have hi := i.isLt
  by_cases h : 13 * u + r < 64
  · simp [h, Fin.ext_iff, eq_comm]
  · simp only [h, dite_false, reduceCtorEq, Option.some.injEq, false_iff]
    rintro ⟨_, _, rfl, rfl, hiu⟩
    omega

/-- The only error of the alphabet (R222). -/
theorem indexOf_error {e : SoftwareError} (h : indexOf a b = .error e) : e = .invalidSymbol := by
  unfold indexOf at h
  split at h
  · split at h
    · cases h
    · exact (Except.error.inj h).symm
  · exact (Except.error.inj h).symm

/-- The found index of a character leads back to it. -/
theorem getD_of_idxOf? {cs : List Char} {c : Char} {k : Nat} (h : cs.idxOf? c = some k) (d : Char) :
    k < cs.length ∧ cs.getD k d = c := by
  obtain ⟨hk, hc, -⟩ := List.idxOf?_eq_some_iff.mp h
  exact ⟨hk, (List.getD_eq_getElem _ _ hk).trans hc⟩

/-- A recognised text in canonical case is the text of its symbol: the rank is below 13, so suit and rank come back from
the index. -/
theorem symbolAt_of_indexOf (h : indexOf a b = .ok i) : symbolAt i = (a.toUpper, b.toLower) := by
  obtain ⟨r, u, hr, hu, hi⟩ := indexOf_eq_ok_iff.mp h
  obtain ⟨hr13, hrank⟩ := getD_of_idxOf? hr '1'
  obtain ⟨-, hsuit⟩ := getD_of_idxOf? hu 'f'
  have hr13 : r < 13 := hr13
  have hmod : i.val % 13 = r := by omega
  have hdiv : i.val / 13 = u := by omega
  rw [symbolAt, hmod, hdiv, hrank, hsuit]

end Alphabet

/-- Settles O56: the 64 symbols one by one; for an arbitrary text, suit and rank come back from the index. -/
theorem alphabetIndexAndTextAreInverse : Obligations.AlphabetIndexAndTextAreInverse := by
  refine ⟨by decide, fun a b i => symbolAt_of_indexOf, rfl, fun i => ⟨?successor, ?predecessor⟩⟩
  case successor => exact Fin.val_add i 1
  case predecessor => exact add_sub_cancel_right i 1

/-! ## Password text (R226) -/

section Text

variable {text : List Char} {symbols : List Symbol}

/-- A computation in two parts succeeds when both do. -/
theorem ok_of_bind_eq_ok {ε α β : Type} {run : Except ε α} {next : α → Except ε β} {y : β}
    (h : run >>= next = .ok y) : ∃ x, run = .ok x ∧ next x = .ok y := by
  cases run with
  | error e => cases h
  | ok x => exact ⟨x, rfl, h⟩

/-- It fails when the first part does, or when the second does after it. -/
theorem error_of_bind_eq_error {ε α β : Type} {run : Except ε α} {next : α → Except ε β} {e : ε}
    (h : run >>= next = .error e) : run = .error e ∨ ∃ x, run = .ok x ∧ next x = .error e := by
  cases run with
  | error e' => exact .inl (congrArg Except.error (Except.error.inj h))
  | ok x => exact .inr ⟨x, rfl, h⟩

/-- One symbol for each group of two characters. -/
theorem length_of_parseGroups :
    ∀ {text : List Char} {symbols : List Symbol}, parseGroups text = .ok symbols → symbols.length = text.length / 2
  | [], _, h => by cases h; rfl
  | [_], _, h => by cases h; simp
  | _ :: _ :: rest, _, h => by
    obtain ⟨x, -, hrest⟩ := ok_of_bind_eq_ok h
    obtain ⟨xs, hxs, ⟨⟩⟩ := ok_of_bind_eq_ok hrest
    simp only [List.length_cons, length_of_parseGroups hxs]
    omega

/-- Groups are refused for a symbol only. -/
theorem parseGroups_error {e : SoftwareError} : ∀ {text : List Char}, parseGroups text = .error e → e = .invalidSymbol
  | _ :: _ :: _, h => by
    rcases error_of_bind_eq_error h with hx | ⟨x, -, hrest⟩
    · exact indexOf_error hx
    · rcases error_of_bind_eq_error hrest with hxs | ⟨xs, -, ⟨⟩⟩
      exact parseGroups_error hxs

/-- A text that parses is a Password of 30 symbols (R225, R226). -/
theorem length_of_parseText (h : parseText text = .ok symbols) : symbols.length = 30 := by
  unfold parseText at h
  split at h
  case isTrue => cases h
  case isFalse hlen =>
    rw [length_of_parseGroups h]
    omega

/-- The length is checked before the symbols (R226, R250). -/
theorem parseText_error {e : SoftwareError} (h : parseText text = .error e) :
    e = if text.length ≠ 60 then .invalidLength else .invalidSymbol := by
  unfold parseText at h
  split at h
  case isTrue hlen => rw [if_pos hlen, Except.error.inj h]
  case isFalse hlen => rw [if_neg hlen, parseGroups_error h]

/-- Two characters for each symbol. -/
theorem length_showText (symbols : List Symbol) : (showText symbols).length = 2 * symbols.length := by
  simp [showText, List.length_flatMap, Nat.mul_comm]

end Text

/-! ## The interchange form (R251) -/

section Interchange

variable {f : FlatRecord} {k : FlatKey}

theorem numberAt_of_lookup {n : Nat} (h : f.lookup k = some (.number n)) : numberAt f k = some n := by
  rw [numberAt, h]

theorem numberAt_of_missing (h : f.lookup k = none) : numberAt f k = none := by
  rw [numberAt, h]

theorem codesAt_of_lookup {cs : List Nat} (h : f.lookup k = some (.codes cs)) : codesAt f k = some cs := by
  rw [codesAt, h]

/-- A byte's number reads back as the byte. -/
theorem byteAt_of_lookup {b : Byte} (h : f.lookup k = some (.number b.toNat)) : byteAt f k = some b := by
  rw [byteAt, numberAt_of_lookup h, Option.bind_some, if_pos b.isLt, BitVec.ofNat_toNat, BitVec.setWidth_eq]

/-! ### The group that `type` selects -/

theorem variantOfFlat_of_rescue (h : numberAt f .type = some 0) : variantOfFlat f = rescueOfFlat f := by
  simp only [variantOfFlat, h]

theorem variantOfFlat_of_revival (h : numberAt f .type = some 1) : variantOfFlat f = revivalOfFlat f := by
  simp only [variantOfFlat, h]

/-- The rescue group reads as a rescue variant only. -/
theorem typeBit_of_rescueOfFlat {v : Variant} (h : rescueOfFlat f = some v) : v.typeBit = 0 := by
  simp only [rescueOfFlat, Option.bind_eq_bind, Option.bind_eq_some_iff, Option.pure_def, Option.some.injEq] at h
  obtain ⟨_, -, _, -, _, -, _, -, _, -, _, -, _, -, rfl⟩ := h
  rfl

/-- The revival group reads as a revival variant only. -/
theorem typeBit_of_revivalOfFlat {v : Variant} (h : revivalOfFlat f = some v) : v.typeBit = 1 := by
  simp only [revivalOfFlat, Option.ite_none_right_eq_some, Option.map_eq_some_iff] at h
  obtain ⟨-, _, -, rfl⟩ := h
  rfl

/-- What reads as a variant has the variant's type under the key `type`. -/
theorem numberAt_type_of_variantOfFlat {v : Variant} (h : variantOfFlat f = some v) :
    numberAt f .type = some v.typeBit := by
  unfold variantOfFlat at h
  split at h
  case h_1 htype => rw [htype, typeBit_of_rescueOfFlat h]
  case h_2 htype => rw [htype, typeBit_of_revivalOfFlat h]
  case h_3 => cases h

/-- Every key of the rescue group is required. -/
theorem rescueOfFlat_of_missing (hk : k ∈ FlatKey.revive :: rescueKeys) (h : f.lookup k = none) :
    rescueOfFlat f = none := by
  have hnone := numberAt_of_missing h
  simp only [rescueKeys, List.mem_cons, List.not_mem_nil, or_false] at hk
  rcases hk with rfl | rfl | rfl | rfl | rfl | rfl | rfl <;> simp [rescueOfFlat, hnone]

/-- The revive value is required. -/
theorem revivalOfFlat_of_missing (h : f.lookup .revive = none) : revivalOfFlat f = none := by
  rw [revivalOfFlat, numberAt_of_missing h, Option.map_none, ite_self]

/-- No rescue field is admitted in a revival record. -/
theorem revivalOfFlat_of_rescueField {v : FlatValue} (hk : k ∈ rescueKeys) (h : f.lookup k = some v) :
    revivalOfFlat f = none := by
  rw [revivalOfFlat, if_neg]
  intro hall
  simpa [h] using List.all_eq_true.mp hall k hk

/-! ### The whole Record -/

/-- Where there is no variant there is no Record. -/
theorem Record.ofFlat_of_noVariant (h : variantOfFlat f = none) : Record.ofFlat f = none := by
  simp [Record.ofFlat, h]

theorem variantOfFlat_of_ofFlat {r : Record} (h : Record.ofFlat f = some r) : variantOfFlat f = some r.variant := by
  simp only [Record.ofFlat, Option.bind_eq_bind, Option.bind_eq_some_iff, Option.pure_def, Option.some.injEq] at h
  obtain ⟨_, -, _, -, _, -, v, hv, _, -, _, -, rfl⟩ := h
  exact hv

/-- The group that a variant writes is the group that its type reads. -/
theorem variantOfFlat_toFlat (r : Record) : variantOfFlat r.toFlat = some r.variant := by
  obtain ⟨_, _, _, v, _, _⟩ := r
  cases v <;> rfl

/-- Every key of the flat form holds its field. -/
theorem Record.ofFlat_toFlat (r : Record) : Record.ofFlat r.toFlat = some r := by
  have hchecksum : byteAt r.toFlat .checksum = some r.checksum :=
    byteAt_of_lookup (by rcases r with ⟨_, _, _, _ | _, _, _⟩ <;> rfl)
  have hcalculated : byteAt r.toFlat .calculatedChecksum = some r.calculated :=
    byteAt_of_lookup (by rcases r with ⟨_, _, _, _ | _, _, _⟩ <;> rfl)
  have htimestamp : numberAt r.toFlat .timestamp = some r.timestamp := numberAt_of_lookup rfl
  have hunk1 : numberAt r.toFlat .unk1 = some r.unk1 := numberAt_of_lookup rfl
  have hteam : codesAt r.toFlat .teamName = some r.team := codesAt_of_lookup rfl
  rw [Record.ofFlat, htimestamp, hunk1, hteam, variantOfFlat_toFlat, hchecksum, hcalculated]
  rfl

end Interchange

/-- Settles O59: the flat form key by key, and the group that `type` selects. -/
theorem interchangeFormKeepsTheRecord : Obligations.InterchangeFormKeepsTheRecord := by
  refine ⟨Record.ofFlat_toFlat, fun f r h => ?typed, fun f k htype hk hmissing => ?rescueMissing,
    fun f htype hmissing => ?revivalMissing, fun f k v htype hk hpresent => ?revivalStray⟩
  case typed => exact numberAt_type_of_variantOfFlat (variantOfFlat_of_ofFlat h)
  case rescueMissing =>
    exact Record.ofFlat_of_noVariant ((variantOfFlat_of_rescue htype).trans (rescueOfFlat_of_missing hk hmissing))
  case revivalMissing =>
    exact Record.ofFlat_of_noVariant ((variantOfFlat_of_revival htype).trans (revivalOfFlat_of_missing hmissing))
  case revivalStray =>
    exact Record.ofFlat_of_noVariant
      ((variantOfFlat_of_revival htype).trans (revivalOfFlat_of_rescueField hk hpresent))

end Machine
end Sys2Proof
end

section
/-!
PROOFS. The host's calls of the block, one transaction at a time, and the Field Codec over them: the fields of a Record
as one integer of 172 bits (spec/48_host_pipeline.md rules R240 to R243, R250).
-/

namespace Sys2Proof
namespace Machine

/-! ## Calls of the block (R250, R296) -/

/-- The host's software ends with the result `a` and leaves the block in a state with `Q`. -/
def Returns {α : Type} (run : Except SoftwareError (α × State)) (a : α) (Q : State → Prop) : Prop :=
  ∃ t, run = .ok (a, t) ∧ Q t

/-- No fault is recorded. -/
abbrev NoFault (s : State) : Prop := s.faultCode = 0#8

section Calls

variable {α β : Type} {P Q R : State → Prop} {s t : State} {i : Instr} {p ws : List Word}

theorem Returns.done {a : α} (h : Q t) : Returns (.ok (a, t)) a Q := ⟨t, rfl, h⟩

/-- One part of the software after the other. -/
theorem Returns.bind {run : Except SoftwareError (α × State)} {next : α × State → Except SoftwareError (β × State)}
    {a : α} {b : β} (h : Returns run a Q) (hnext : ∀ t, Q t → Returns (next (a, t)) b R) :
    Returns (run >>= next) b R := by
  obtain ⟨t, rfl, ht⟩ := h
  exact hnext t ht

/-- The same for a result of which only a property is said. -/
theorem Returns.bind_exists {run : Except SoftwareError (α × State)} {C : β → Prop}
    {next : α × State → Except SoftwareError (β × State)} {a : α} (h : Returns run a Q)
    (hnext : ∀ t, Q t → ∃ b, Returns (next (a, t)) b R ∧ C b) : ∃ b, Returns (run >>= next) b R ∧ C b := by
  obtain ⟨t, rfl, ht⟩ := h
  exact hnext t ht

/-- An operation that starts and ends unfaulted was performed: a failing check would have been recorded. -/
theorem operate_answered {cs : List Check} {d : State} (h : NoFault s) (hop : operate s cs d ws = .next t)
    (ht : NoFault t) : t = d.answered ws := by
  rcases operate_cases s cs d ws with ⟨hfaulted, -⟩ | ⟨-, c, -, hraised⟩ | ⟨-, -, hdone⟩
  · exact absurd h hfaulted
  · obtain rfl := Host.Outcome.next.inj (hop.symm.trans hraised)
    exact absurd ht c.code_ne_zero
  · exact Host.Outcome.next.inj (hop.symm.trans hdone)

/-- So its response is `OK`. -/
theorem exec_answered (h : NoFault s) (hexec : exec i s = .next t) (ht : NoFault t) :
    ∃ d ws, t = State.answered d ws := by
  cases i
  case stat =>
    by_cases hp : s.payload = []
    · exact ⟨_, _, Host.Outcome.next.inj (hexec.symm.trans (execStat_performed hp))⟩
    · have hraised : exec .stat s = .next (s.faultTaken FaultCode.badLength.code) := by
        change execStat s = _
        rw [execStat, State.payloadGiven_eq_true.mpr hp, State.faulted, h]
        rfl
      obtain rfl := Host.Outcome.next.inj (hexec.symm.trans hraised)
      exact absurd ht FaultCode.badLength.code_ne_zero
  all_goals exact ⟨_, _, operate_answered h hexec ht⟩

/-- A call from what its operation answers. -/
theorem callBlock_of_answered (hi : i.WellFormed)
    (h : exec i (s.latched (encode i) p s.inbox) = .next (t.answered ws)) :
    callBlock i p s = .ok (ws, t.answered ws) := by
  have hstep : step (s.submit (encode i) p) = .next (t.answered ws) := (step_of_legal rfl (decode_encode hi)).trans h
  have hlast : (t.answered ws).outbox.getLast? = some (okResponse ws) := List.getLast?_concat
  simp only [callBlock, hstep, hlast]
  rfl

/-- A call of an operation that changes no unit. -/
theorem callBlock_returns (hi : i.WellFormed) (h : NoFault s)
    (hexec : exec i (s.latched (encode i) p s.inbox) =
      .next ((s.latched (encode i) p s.inbox).answered ws)) : Returns (callBlock i p s) ws NoFault :=
  ⟨_, callBlock_of_answered hi hexec, h⟩

/-- A call from a run of one transaction that ends unfaulted. -/
theorem callBlock_of_leads (hi : i.WellFormed) (hrun : Leads P [issue i p] Q) (hP : P (s.submit (encode i) p))
    (h : NoFault s) (hQ : ∀ t, Q t → NoFault t) :
    ∃ ws, Returns (callBlock i p s) ws fun t => Q t ∧ t.lastResponse = some (okResponse ws) := by
  obtain ⟨t, hcore, -, ht⟩ := hrun _ s.inbox hP rfl
  obtain ⟨t', hexec, -⟩ := exec_answersOnce i (s.latched (encode i) p s.inbox)
  have hstep : step (s.submit (encode i) p) = .next t' := (step_of_legal rfl (decode_encode hi)).trans hexec
  obtain rfl : t = t' := Host.Outcome.next.inj (hcore.symm.trans (core_run_succ hstep 0))
  obtain ⟨d, ws, rfl⟩ := exec_answered (by exact h) hexec (hQ t ht)
  exact ⟨ws, _, callBlock_of_answered hi hexec, ht, State.lastResponse_eq rfl⟩

/-- The same where the run says what is answered. -/
theorem callBlock_returns_of_leads (hi : i.WellFormed) (hrun : Leads P [issue i p] Q)
    (hP : P (s.submit (encode i) p)) (h : NoFault s) (hQ : ∀ t, Q t → NoFault t)
    (hlast : ∀ t, Q t → t.lastResponse = some (okResponse ws)) : Returns (callBlock i p s) ws Q := by
  obtain ⟨ws', t, hcall, ht, hlast'⟩ := callBlock_of_leads hi hrun hP h hQ
  obtain ⟨⟩ := (hlast t ht).symm.trans hlast'
  exact ⟨t, hcall, ht⟩

end Calls

/-! ## Reading fields (R241) -/

/-- The fields of these widths, cut off an integer in turn. -/
def fieldValues : Nat → List Nat → List Nat
  | _, [] => []
  | v, n :: ns => v % 2 ^ n :: fieldValues (v / 2 ^ n) ns

/-- Writing the fields that were cut off gives the low end of the integer again. -/
theorem writtenNumber_zip_fieldValues (v : Nat) (ns : List Nat) :
    writtenNumber (ns.zip (fieldValues v ns)) = v % 2 ^ ns.sum := by
  induction ns generalizing v with
  | nil => simp [fieldValues, writtenNumber, Nat.mod_one]
  | cons n ns ih =>
    rw [fieldValues, List.zip_cons_cons, writtenNumber, ih, List.sum_cons, pow_add, Nat.mod_mul, Nat.mod_mod]

/-- A valid Reader with the integer `v` before it, in an unfaulted state. -/
def ReaderHolds (v : Nat) (s : State) : Prop := ∃ left out, ReaderAt v left out s

section Reading

variable {s : State} {v : Nat}

theorem ReaderHolds.noFault (h : ReaderHolds v s) : NoFault s := by
  obtain ⟨_, _, hr⟩ := h
  exact hr.unfaulted

theorem callRdLoad_returns {ds : List Word} (h : NoFault s) (hlen : AtMostMaxLen ds.length) (hds : DigitsBelow 8 ds) :
    Returns (callBlock (.rdLoad 8) ds s) [] (ReaderHolds (streamNumber 8 ds)) := by
  have hrun := leads_rdLoad (out := s.outbox) (sw := 8) (by decide) hlen hds
  obtain ⟨t, hcall, ht⟩ := callBlock_returns_of_leads (s := s) rfl hrun ⟨h, rfl⟩ h (fun t ht => ht.unfaulted)
    fun t ht => State.lastResponse_eq ht.outbox
  exact ⟨t, hcall, _, _, ht⟩

theorem callRdRead_returns {n : Nat} (hn : n ≤ 32) (h : ReaderHolds v s) :
    Returns (callBlock (.rdRead n) [] s) [toWord (v % 2 ^ n)] (ReaderHolds (v / 2 ^ n)) := by
  obtain ⟨left, out, hr⟩ := h
  obtain ⟨t, hcall, ht⟩ := callBlock_returns_of_leads (i := .rdRead n) (s := s)
    (decide_eq_true (fitsByteField_of_le hn)) (leads_rdRead hn)
    { hr with } hr.unfaulted (fun t ht => ht.unfaulted)
    fun t ht => State.lastResponse_eq ht.outbox
  exact ⟨t, hcall, _, _, ht⟩

/-- A field fits the result word of its read. -/
theorem toNat_headD_field {n : Nat} (hn : n ≤ 32) (v : Nat) : ([toWord (v % 2 ^ n)].headD 0#32).toNat = v % 2 ^ n := by
  have hlt : v % 2 ^ n < 2 ^ 32 := (Nat.mod_lt _ (Nat.two_pow_pos n)).trans_le (Nat.pow_le_pow_right (by decide) hn)
  exact (BitVec.toNat_ofNat _ 32).trans (Nat.mod_eq_of_lt hlt)

/-- The reads cut the fields off the integer in turn. -/
theorem readFields_returns {ns : List Nat} (hns : ∀ n ∈ ns, n ≤ 32) (h : ReaderHolds v s) :
    Returns (readFields ns s) (fieldValues v ns) (ReaderHolds (v / 2 ^ ns.sum)) := by
  induction ns generalizing v s with
  | nil => simpa [readFields, fieldValues] using Returns.done h
  | cons n ns ih =>
    obtain ⟨hn, hns⟩ := List.forall_mem_cons.mp hns
    refine (callRdRead_returns hn h).bind fun s1 h1 => (ih hns h1).bind fun s2 h2 => ?_
    rw [Nat.div_div_eq_div_mul, ← pow_add, ← List.sum_cons] at h2
    exact ⟨s2, congrArg (fun x => Except.ok (x :: fieldValues (v / 2 ^ n) ns, s2)) (toNat_headD_field hn v), h2⟩

/-- The widths of the fields that `type` selects (R240). -/
def tailWidths (type : Nat) : List Nat := if type = 0 then rescueWidths else revivalWidths

theorem tailWidths_le (type : Nat) : ∀ n ∈ tailWidths type, n ≤ 32 := by
  unfold tailWidths
  split <;> decide

/-- Both tails are 30 bits. -/
theorem sum_tailWidths (type : Nat) : (tailWidths type).sum = 30 := by
  unfold tailWidths
  split <;> rfl

/-- The field `type` of a body that is the integer `v`. -/
def typeField (v : Nat) : Nat := (fieldValues v commonWidths).getD 1 0

theorem typeField_eq (v : Nat) : typeField v = v / 2 ^ 32 % 2 := rfl

theorem typeField_lt (v : Nat) : typeField v < 2 := by
  rw [typeField_eq]
  exact Nat.mod_lt _ (by decide)

/-- The fields of a body that is the integer `v`. -/
def bodyFields (v : Nat) : RawFields where
  common := fieldValues v commonWidths
  tail := fieldValues (v / 2 ^ 142) (tailWidths (typeField v))

/-- `decode_fields` in closed form. -/
theorem decodeFields_returns {body : List Word} (h : NoFault s) (hlen : AtMostMaxLen body.length)
    (hds : DigitsBelow 8 body) : Returns (decodeFields body s) (bodyFields (streamNumber 8 body)) NoFault := by
  refine (callRdLoad_returns h hlen hds).bind fun s1 h1 => ?_
  refine (readFields_returns (by decide) h1).bind fun s2 h2 => ?_
  refine (readFields_returns (tailWidths_le (typeField (streamNumber 8 body))) h2).bind fun s3 h3 => ?_
  exact Returns.done h3.noFault

end Reading

/-! ## Writing fields (R242) -/

section Writing

variable {s : State} {bits v : Nat}

theorem callWrInit_returns (h : NoFault s) : ∃ ws, Returns (callBlock (.wrInit 8) [] s) ws (WriterAt 8 0 0) := by
  obtain ⟨ws, t, hcall, ht, -⟩ := callBlock_of_leads (s := s) rfl (leads_wrInit (dw := 8) (out := s.outbox) (by decide))
    ⟨h, rfl⟩ h fun t ht => ht.unfaulted
  exact ⟨ws, t, hcall, ht⟩

/-- A value of any size is cut to its data word and then to its field. -/
theorem callWrWrite_returns {n x : Nat} (hn : n ≤ 32) (hroom : AtMostMaxLen ((bits + n) / 8))
    (h : WriterAt 8 bits v s) : ∃ ws, Returns (callBlock (.wrWrite n) [toWord x] s) ws
      (WriterAt 8 (bits + n) (v + 2 ^ bits * (x % 2 ^ n))) := by
  have hword : toWord (x % 2 ^ 32) = toWord x := BitVec.eq_of_toNat_eq (by simp [toWord])
  have hfield : x % 2 ^ 32 % 2 ^ n = x % 2 ^ n := Nat.mod_mod_of_dvd x (pow_dvd_pow 2 hn)
  have hrun := leads_wrWrite (v := v) (dw := 8) (by decide) hn (Nat.mod_lt x (Nat.two_pow_pos 32)) hroom
  rw [hword, hfield] at hrun
  obtain ⟨ws, t, hcall, ht, -⟩ := callBlock_of_leads (i := .wrWrite n) (s := s)
    (decide_eq_true (fitsByteField_of_le hn)) hrun
    { h with } h.unfaulted fun t ht => ht.unfaulted
  exact ⟨ws, t, hcall, ht⟩

/-- The writes put the written string above what is held. -/
theorem writeFields_ok {ws : List (Nat × Nat)} (hws : ∀ x ∈ ws, x.1 ≤ 32)
    (hroom : AtMostMaxLen ((bits + writtenBits ws) / 8)) (h : WriterAt 8 bits v s) :
    ∃ t, writeFields ws s = .ok t ∧ WriterAt 8 (bits + writtenBits ws) (v + 2 ^ bits * writtenNumber ws) t := by
  induction ws generalizing bits v s with
  | nil => exact ⟨s, rfl, h⟩
  | cons x ws ih =>
    obtain ⟨n, x⟩ := x
    obtain ⟨hn, hws⟩ := List.forall_mem_cons.mp hws
    have hbits : bits + writtenBits ((n, x) :: ws) = bits + n + writtenBits ws := by
      rw [writtenBits, List.map_cons, List.sum_cons, ← Nat.add_assoc]
      rfl
    have hnumber : v + 2 ^ bits * writtenNumber ((n, x) :: ws) =
        v + 2 ^ bits * (x % 2 ^ n) + 2 ^ (bits + n) * writtenNumber ws := by
      rw [writtenNumber, pow_add]
      ring
    rw [hbits] at hroom ⊢
    rw [hnumber]
    have hfirst := Config.exceedsMaxLen_mono (Nat.div_le_div_right (Nat.le_add_right ..)) hroom
    obtain ⟨_, s1, hcall, h1⟩ := callWrWrite_returns hn hfirst h
    obtain ⟨t, hrest, ht⟩ := ih hws hroom h1
    refine ⟨t, ?_, ht⟩
    rw [writeFields, hcall]
    exact hrest

theorem callWrFin_returns (hroom : AtMostMaxLen (ceilDiv bits 8)) (h : WriterAt 8 bits v s) :
    Returns (callBlock .wrFin [] s) (cutWords 8 v (ceilDiv bits 8)) NoFault := by
  obtain ⟨t, hcall, hunfaulted, -⟩ := callBlock_returns_of_leads (s := s) rfl (leads_wrFin (by decide) hroom)
    { h with } h.unfaulted (fun _ ⟨hunfaulted, _⟩ => hunfaulted)
    fun _ ⟨_, _, hlast⟩ => hlast
  exact ⟨t, hcall, hunfaulted⟩

end Writing

/-! ## A Record's fields as one integer (R240, R242) -/

theorem Variant.widths_eq (v : Variant) : v.widths = tailWidths v.typeBit := by
  cases v <;> rfl

@[simp] theorem Variant.length_tail (v : Variant) : v.tail.length = v.widths.length := by
  cases v <;> rfl

@[simp] theorem length_teamSlots (team : List Nat) : (teamSlots team).length = 12 := by
  simp [teamSlots]

theorem teamSlots_of_length {team : List Nat} (h : team.length = 12) : teamSlots team = team := by
  rw [teamSlots, List.take_append_of_le_length h.ge, List.take_of_length_le h.le]

section Fields

variable (r : Record)

/-- The values of the common fields in serialization order. -/
def Record.common : List Nat := [r.timestamp, r.variant.typeBit, r.unk1] ++ teamSlots r.team

/-- The integer of 172 bits whose fields are those of the Record. -/
def Record.fieldNumber : Nat :=
  writtenNumber (commonWidths.zip r.common) + 2 ^ 142 * writtenNumber (r.variant.widths.zip r.variant.tail)

/-- The body that `encode_fields` returns. -/
def Record.body : List Word := cutWords 8 r.fieldNumber 22

@[simp] theorem Record.length_body : r.body.length = 22 := length_cutWords ..

theorem Record.body_below : DigitsBelow 8 r.body := cutWords_below _ _ _

/-- With a value for each width, what is written is as long as the widths together. -/
theorem writtenBits_zip {ns vs : List Nat} (h : ns.length = vs.length) : writtenBits (ns.zip vs) = ns.sum := by
  rw [writtenBits, List.map_fst_zip h.le]

theorem fst_le_of_mem_zip {ns vs : List Nat} (hns : ∀ n ∈ ns, n ≤ 32) : ∀ x ∈ ns.zip vs, x.1 ≤ 32 :=
  fun x hx => hns x.1 (List.of_mem_zip (a := x.1) (b := x.2) hx).1

/-- `encode_fields` in closed form: 142 bits of common fields, 30 bits of the variant's. -/
theorem encodeFields_returns {s : State} (h : NoFault s) : Returns (encodeFields r s) r.body NoFault := by
  have hcommon : writtenBits (commonWidths.zip r.common) = 142 :=
    writtenBits_zip (by simp [commonWidths, Record.common])
  have htail : writtenBits (r.variant.widths.zip r.variant.tail) = 30 := by
    rw [writtenBits_zip (by simp), Variant.widths_eq, sum_tailWidths]
  have htailLe : ∀ n ∈ r.variant.widths, n ≤ 32 := r.variant.widths_eq ▸ tailWidths_le _
  obtain ⟨_, s1, hinit, h1⟩ := callWrInit_returns h
  obtain ⟨s2, hwrites, h2⟩ := writeFields_ok (ws := commonWidths.zip r.common) (fst_le_of_mem_zip (by decide))
    (by rw [hcommon]; exact Config.exceedsMaxLen_of_le (by decide)) h1
  rw [hcommon, Nat.zero_add, Nat.zero_add, pow_zero, Nat.one_mul] at h2
  obtain ⟨s3, hwrites', h3⟩ := writeFields_ok (fst_le_of_mem_zip htailLe)
    (by rw [htail]; exact Config.exceedsMaxLen_of_le (by decide)) h2
  rw [htail] at h3
  obtain ⟨t, hfin, ht⟩ := callWrFin_returns (Config.exceedsMaxLen_of_le (by decide)) h3
  refine ⟨t, ?_, ht⟩
  rw [encodeFields, hinit]
  change writeFields (commonWidths.zip r.common) s1 >>= _ = _
  rw [hwrites]
  change writeFields (r.variant.widths.zip r.variant.tail) s2 >>= _ = _
  rw [hwrites']
  exact hfin

end Fields

/-- A Record that holds the fields of a body writes the same body. -/
theorem Record.fieldNumber_eq {r : Record} {v : Nat} (hv : v < 2 ^ 172) (hcommon : r.common = (bodyFields v).common)
    (htype : r.variant.typeBit = typeField v) (htail : r.variant.tail = (bodyFields v).tail) : r.fieldNumber = v := by
  have hsum : commonWidths.sum = 142 := rfl
  rw [Record.fieldNumber, hcommon, htail, Variant.widths_eq, htype, bodyFields, writtenNumber_zip_fieldValues,
    writtenNumber_zip_fieldValues, sum_tailWidths, hsum, ← Nat.mod_mul, ← pow_add]
  exact Nat.mod_eq_of_lt hv

end Machine
end Sys2Proof
end

section
/-!
PROOFS. The host's pipelines `PW.DECODE` and `PW.ENCODE` (spec/48_host_pipeline.md rules R245, R246): what the host
holds between the operations, that the two undo each other (R249), and that no operation of theirs is refused (R250).
-/

namespace Sys2Proof
namespace Machine

/-! ## Sequences that do not fill their last digit -/

/-- The integer of a digit sequence is bounded by the bound on its last digit. -/
theorem streamNumber_lt_of_last {w k : Nat} {ds : List Word} (hw : 1 ≤ w) (hds : DigitsBelow w ds)
    (hlast : (ds.getLastD 0#32).toNat < 2 ^ k) : streamNumber w ds < 2 ^ ((ds.length - 1) * w + k) := by
  rcases List.eq_nil_or_concat ds with rfl | ⟨init, d, rfl⟩
  · exact Nat.two_pow_pos _
  · rw [List.concat_eq_append] at hds hlast ⊢
    rw [List.getLastD_concat] at hlast
    rw [List.length_append, List.length_singleton, Nat.add_sub_cancel, streamNumber_append, streamNumber_singleton]
    exact add_two_pow_mul_lt (streamNumber_lt hw fun x hx => hds x (List.mem_append_left _ hx)) hlast

/-- The last digit cut off an integer is what of it lies above the other digits. -/
theorem getLastD_cutWords_lt {w v m k : Nat} (hw : w ≤ 32) (hv : v < 2 ^ (m * w + k)) :
    ((cutWords w v (m + 1)).getLastD 0#32).toNat < 2 ^ k := by
  rw [cutWords_succ, List.getLastD_concat, toNat_toWord_cutDigit hw, cutDigit]
  refine (Nat.mod_le _ _).trans_lt (Nat.div_lt_of_lt_mul ?_)
  rwa [← pow_add]

/-- The cipher's mask on the last byte of its answer (R173). -/
theorem getLastD_cipherAnswer_lt (sign : Int) {bytes : List Word} (hlen : 2 ≤ bytes.length)
    (hds : DigitsBelow 8 bytes) :
    ((cipherAnswer sign bytes).getLastD 0#32).toNat < 2 ^ remainBits bytes.length := by
  have hlen' : 2 ≤ (bytes.map BitVec.toNat).length := by rwa [List.length_map]
  rw [← getD_last_map_toNat, length_cipherAnswer sign hds hlen, cipherAnswer,
    map_toNat_seqResult (cipher_bytes_lt sign hlen' hds.map_toNat), getD_cipher sign hlen' hds.map_toNat
    (by rw [List.length_map]; omega), cipherByte_eq_ite, if_pos (by rw [List.length_map]; omega), List.length_map]
  exact Nat.mod_lt _ (Nat.two_pow_pos _)

/-! ## From a password to the plain bytes and back (R245 steps 3 to 5, R246 steps 5 to 8) -/

/-- The 23 bytes of a password that its expansion gives. -/
def expanded (wire : List Word) : List Word := cutWords 8 (streamNumber 6 (unshuffle Config.perm wire)) 23

/-- The 23 plain bytes of a password in wire order. -/
def decrypted (wire : List Word) : List Word := cipherAnswer (-1) (expanded wire)

/-- The password in wire order of 23 plain bytes; the 31st digit of the contraction is left out. -/
def encrypted (plain : List Word) : List Word :=
  unshuffle Config.perm.symm (cutWords 6 (streamNumber 8 (cipherAnswer 1 plain)) 30)

@[simp] theorem length_expanded (wire : List Word) : (expanded wire).length = 23 := length_cutWords ..

theorem expanded_below (wire : List Word) : DigitsBelow 8 (expanded wire) := cutWords_below _ _ _

@[simp] theorem length_decrypted (wire : List Word) : (decrypted wire).length = 23 := by
  rw [decrypted, length_cipherAnswer _ (expanded_below wire) (by simp), length_expanded]

theorem decrypted_below (wire : List Word) : DigitsBelow 8 (decrypted wire) :=
  digitsBelow_cipherAnswer _ (expanded_below wire) (by simp)

@[simp] theorem length_encrypted (plain : List Word) : (encrypted plain).length = 30 := length_unshuffle _ _

/-- The last four bits of the plain bytes belong to no field: they are zero (R240). -/
theorem streamNumber_drop_decrypted_lt (wire : List Word) : streamNumber 8 ((decrypted wire).drop 1) < 2 ^ 172 := by
  have hlast : (((decrypted wire).drop 1).getLastD 0#32).toNat < 2 ^ 4 := by
    rw [List.getLastD_eq_getLast?, List.getLast?_drop, if_neg (by simp), ← List.getLastD_eq_getLast?]
    exact (getLastD_cipherAnswer_lt (-1) (by simp) (expanded_below wire)).trans_eq (by rw [length_expanded]; rfl)
  have hlt := streamNumber_lt_of_last (by decide)
    (fun d hd => decrypted_below wire d (List.mem_of_mem_drop hd)) hlast
  rwa [List.length_drop, length_decrypted] at hlt

section Passwords

variable {wire : List Word} (hlen : wire.length = 30) (hds : DigitsBelow 6 wire)

include hlen hds

/-- A password is 180 bits. -/
theorem streamNumber_unshuffle_lt : streamNumber 6 (unshuffle Config.perm wire) < 2 ^ 180 := by
  have hlt := streamNumber_lt (by decide) (digitsBelow_unshuffle Config.perm hlen hds)
  rwa [length_unshuffle] at hlt

/-- Encrypting what was decrypted gives the expansion again: its last byte holds four bits only (R175). -/
theorem cipherAnswer_decrypted : cipherAnswer 1 (decrypted wire) = expanded wire := by
  refine cipherAnswer_neg_cipherAnswer (-1) (expanded_below wire) (by simp) ?_
  rw [length_expanded]
  exact getLastD_cutWords_lt (m := 22) (by decide) (streamNumber_unshuffle_lt hlen hds)

/-- The way back to the password (R249). -/
theorem encrypted_decrypted : encrypted (decrypted wire) = wire := by
  have hnumber : streamNumber 8 (expanded wire) = streamNumber 6 (unshuffle Config.perm wire) :=
    streamNumber_cutWords_of_lt (by decide) (streamNumber_unshuffle_lt hlen hds) (by decide)
  have hdigits : cutWords 6 (streamNumber 6 (unshuffle Config.perm wire)) 30 = unshuffle Config.perm wire := by
    rw [cutWords_streamNumber (digitsBelow_unshuffle Config.perm hlen hds) (by simp), length_unshuffle]
    exact List.append_nil _
  have hback := unshuffle_unshuffle_symm Config.perm.symm hlen
  rw [Equiv.symm_symm] at hback
  rw [encrypted, cipherAnswer_decrypted hlen hds, hnumber, hdigits, hback]

end Passwords

/-! ## The whole-sequence calls -/

section Calls

variable {s : State} {p : List Word}

theorem callUnshuf_returns (h : NoFault s) (hlen : p.length = 30) (hds : DigitsBelow 6 p) :
    Returns (callBlock .unshuf p s) (unshuffle Config.perm p) NoFault :=
  callBlock_returns rfl h (execUnshuf_performed h hlen hds)

theorem callShuf_returns (h : NoFault s) (hlen : p.length = 30) (hds : DigitsBelow 6 p) :
    Returns (callBlock .shuf p s) (unshuffle Config.perm.symm p) NoFault :=
  callBlock_returns rfl h (execShuf_performed h hlen hds)

/-- Between the widths 6 and 8 the sequences of a password fit the block. -/
theorem callBitpack_returns {sw dw : Nat} (h : NoFault s) (hsw : 6 ≤ sw ∧ sw ≤ 8) (hdw : 6 ≤ dw ∧ dw ≤ 8)
    (hlen : p.length ≤ 30) (hds : DigitsBelow sw p) :
    Returns (callBlock (.bitpack sw dw) p s) (cutWords dw (streamNumber sw p) (ceilDiv (p.length * sw) dw))
      NoFault := by
  have hbits : p.length * sw ≤ 30 * 8 := Nat.mul_le_mul hlen hsw.2
  have hroom : ceilDiv (p.length * sw) dw ≤ 256 := (Nat.div_le_self _ _).trans (by omega)
  have hwf : Instr.WellFormed (.bitpack sw dw) :=
    Bool.and_eq_true_iff.mpr ⟨decide_eq_true (by omega), decide_eq_true (by omega)⟩
  exact callBlock_returns hwf h (execBitpack_performed h (by omega) (by omega)
    (Config.exceedsMaxLen_of_le (hlen.trans (by decide))) hds (Config.exceedsMaxLen_of_le hroom))

theorem expand_returns (h : NoFault s) (hlen : p.length = 30) (hds : DigitsBelow 6 p) :
    Returns (expand p s) (cutWords 8 (streamNumber 6 p) 23) NoFault := by
  have hcall := callBitpack_returns h (sw := 6) (dw := 8) (by decide) (by decide) hlen.le hds
  rwa [hlen] at hcall

theorem contract_returns (h : NoFault s) (hlen : p.length = 23) (hds : DigitsBelow 8 p) :
    Returns (contract p s) (cutWords 6 (streamNumber 8 p) 31) NoFault := by
  have hcall := callBitpack_returns h (sw := 8) (dw := 6) (by decide) (by decide) (by omega) hds
  rwa [hlen] at hcall

theorem callCiphDec_returns (h : NoFault s) (hlen : p.length = 23) (hds : DigitsBelow 8 p) :
    Returns (callBlock .ciphDec p s) (cipherAnswer (-1) p) NoFault :=
  callBlock_returns rfl h
    (execCiphDec_performed h (hlen.symm ▸ by decide) (Config.exceedsMaxLen_of_le (hlen.symm ▸ by decide)) hds)

theorem callCiphEnc_returns (h : NoFault s) (hlen : p.length = 23) (hds : DigitsBelow 8 p) :
    Returns (callBlock .ciphEnc p s) (cipherAnswer 1 p) NoFault :=
  callBlock_returns rfl h
    (execCiphEnc_performed h (hlen.symm ▸ by decide) (Config.exceedsMaxLen_of_le (hlen.symm ▸ by decide)) hds)

/-- The checksum word of a body. -/
def sumWord (body : List Word) : Word := toWord (255 - foldedSum (sumBytes (body.map BitVec.toNat)))

theorem sumWord_lt (body : List Word) : (sumWord body).toNat < 256 :=
  toNat_toWord_lt (Nat.lt_succ_of_le (Nat.sub_le _ _))

theorem callChksum_returns (h : NoFault s) (hlen : p.length = 22) (hds : DigitsBelow 8 p) :
    Returns (callBlock .chksum p s) [sumWord p] NoFault :=
  callBlock_returns rfl h
    (execChksum_performed h (hlen.symm ▸ by decide) (Config.exceedsMaxLen_of_le (hlen.symm ▸ by decide)) hds)

/-- `REVIVE` accepts the transliteration of any password (P2, R247). -/
theorem callRevive_returns (h : NoFault s) (wire : List Nat) :
    ∃ ws, Returns (callBlock .revive ((Config.translit wire).map (BitVec.setWidth 32)) s) ws NoFault := by
  have hmax : AtMostMaxLen ((Config.translit wire).map (BitVec.setWidth 32)).length := by
    rw [List.length_map]
    exact Config.translit_fits wire
  have hds : DigitsBelow 8 ((Config.translit wire).map (BitVec.setWidth 32)) := by
    refine List.forall_mem_map.mpr fun b _ => ?_
    rw [BitVec.toNat_setWidth]
    exact (Nat.mod_le _ _).trans_lt b.isLt
  exact ⟨_, callBlock_returns rfl h (execRevive_performed h hmax hds)⟩

end Calls

/-! ## PW.DECODE (R245) -/

/-- The fields of a rescue record in serialization order. -/
def rescueFieldsOf (tail : List Nat) : RescueFields where
  dungeon := tail.getD 0 0
  floor := tail.getD 1 0
  pokemon := tail.getD 2 0
  gender := tail.getD 3 0
  reward := tail.getD 4 0
  unk2 := tail.getD 5 0

/-- The variant of the fields read: with either `type` it holds just those fields. -/
theorem decodeVariant_returns {s : State} (h : NoFault s) (wire : List Nat) (v : Nat) :
    ∃ x, Returns (decodeVariant wire (bodyFields v) s) x NoFault ∧ x.typeBit = typeField v ∧
      x.tail = (bodyFields v).tail := by
  by_cases htype : typeField v = 0
  case pos =>
    have hwidths : tailWidths (typeField v) = rescueWidths := if_pos htype
    obtain ⟨ws, hrevive⟩ := callRevive_returns h wire
    refine ⟨.rescue (rescueFieldsOf (bodyFields v).tail) (ws.headD 0#32).toNat, ?_, htype.symm, ?_⟩
    · rw [decodeVariant, if_pos (by exact htype)]
      exact hrevive.bind fun t ht => Returns.done ht
    · rw [bodyFields, hwidths]
      rfl
  case neg =>
    have hwidths : tailWidths (typeField v) = revivalWidths := if_neg htype
    have hone : typeField v = 1 := by
      have := typeField_lt v
      omega
    refine ⟨.revival ((bodyFields v).tail.getD 0 0), ?_, hone.symm, ?_⟩
    · rw [decodeVariant, if_neg (by exact htype)]
      exact Returns.done h
    · rw [bodyFields, hwidths]
      rfl

/-- The bytes of a Record that `PW.ENCODE` encrypts, with this checksum word (R246 step 4). -/
def Record.plainWith (r : Record) (chk : Word) : List Word := chk :: r.body

/-- The stored checksum as a word. -/
def Record.storedWord (r : Record) : Word := r.checksum.setWidth 32

theorem Record.storedWord_lt (r : Record) : r.storedWord.toNat < 256 := by
  rw [Record.storedWord, BitVec.toNat_setWidth]
  exact (Nat.mod_le _ _).trans_lt r.checksum.isLt

/-- A byte in a word is kept whole in the Record. -/
theorem setWidth_setWidth_byte {w : Word} (h : w.toNat < 256) : (w.setWidth 8).setWidth 32 = w := by
  apply BitVec.eq_of_toNat_eq
  rw [BitVec.toNat_setWidth, BitVec.toNat_setWidth, Nat.mod_eq_of_lt h, Nat.mod_eq_of_lt w.isLt]

/-- The Record that steps 6 to 9 of R245 make of 23 plain bytes holds those bytes. -/
theorem Record.plainWith_eq {r : Record} {plain : List Word} (hlen : plain.length = 23) (hds : DigitsBelow 8 plain)
    (hlt : streamNumber 8 (plain.drop 1) < 2 ^ 172) (hchecksum : r.checksum = (plain.headD 0#32).setWidth 8)
    (hcommon : r.common = (bodyFields (streamNumber 8 (plain.drop 1))).common)
    (htype : r.variant.typeBit = typeField (streamNumber 8 (plain.drop 1)))
    (htail : r.variant.tail = (bodyFields (streamNumber 8 (plain.drop 1))).tail) :
    r.plainWith r.storedWord = plain := by
  obtain ⟨c, body, rfl⟩ := List.exists_cons_of_length_eq_add_one hlen
  obtain ⟨hc, hbody⟩ := List.forall_mem_cons.mp hds
  have hlen22 : body.length = 22 := Nat.succ.inj hlen
  have hword : r.storedWord = c := by
    rw [Record.storedWord, hchecksum]
    exact setWidth_setWidth_byte hc
  have hbytes : r.body = body := by
    rw [Record.body, Record.fieldNumber_eq hlt hcommon htype htail, ← hlen22]
    exact (cutWords_streamNumber hbody le_rfl).trans (by simp)
  rw [Record.plainWith, hword, hbytes]

/-- `PW.DECODE` from a password in wire order: the Record holds the decrypted bytes. -/
theorem decodePassword_returns {s : State} {wire : List Nat} (h : NoFault s) (hlen : wire.length = 30)
    (hwire : ∀ d ∈ wire, d < 64) :
    ∃ r, Returns (decodePassword wire s) r NoFault ∧ r.plainWith r.storedWord = decrypted (seqResult wire) := by
  have hlen' : (seqResult wire).length = 30 := by rwa [seqResult, List.length_map]
  have hds : DigitsBelow 6 (seqResult wire) := digitsBelow_seqResult hwire
  have hbody : DigitsBelow 8 ((decrypted (seqResult wire)).drop 1) :=
    fun d hd => decrypted_below _ d (List.mem_of_mem_drop hd)
  have hbodyLen : ((decrypted (seqResult wire)).drop 1).length = 22 := by simp
  refine (callUnshuf_returns h hlen' hds).bind_exists fun s1 h1 => ?_
  refine (expand_returns h1 (length_unshuffle ..) (digitsBelow_unshuffle _ hlen' hds)).bind_exists fun s2 h2 => ?_
  refine (callCiphDec_returns h2 (length_expanded _) (expanded_below _)).bind_exists fun s3 h3 => ?_
  refine (callChksum_returns h3 hbodyLen hbody).bind_exists fun s4 h4 => ?_
  refine (decodeFields_returns h4 (Config.exceedsMaxLen_of_le (by omega)) hbody).bind_exists fun s5 h5 => ?_
  obtain ⟨x, hvariant, htype, htail⟩ :=
    decodeVariant_returns h5 wire (streamNumber 8 ((decrypted (seqResult wire)).drop 1))
  refine ⟨_, hvariant.bind fun s6 h6 => Returns.done h6, ?_⟩
  refine Record.plainWith_eq (length_decrypted _) (decrypted_below _) (streamNumber_drop_decrypted_lt _) rfl ?_
    htype htail
  rw [Record.common, htype, teamSlots_of_length rfl]
  rfl

/-! ## PW.ENCODE (R246) -/

/-- The checksum word that the option selects (R244). -/
def Record.checksumWord (r : Record) (keep : Bool) : Word := if keep then r.storedWord else sumWord r.body

theorem Record.checksumWord_lt (r : Record) (keep : Bool) : (r.checksumWord keep).toNat < 256 := by
  cases keep
  · exact sumWord_lt r.body
  · exact r.storedWord_lt

theorem Record.plainWith_below {r : Record} {chk : Word} (h : chk.toNat < 256) : DigitsBelow 8 (r.plainWith chk) :=
  List.forall_mem_cons.mpr ⟨h, r.body_below⟩

/-- Steps 5 to 8 of R246. -/
theorem encryptCalls_returns {s : State} {plain : List Word} (h : NoFault s) (hlen : plain.length = 23)
    (hds : DigitsBelow 8 plain) :
    Returns (do
      let (enc, s5) ← callBlock .ciphEnc plain s
      let (dig, s6) ← contract enc s5
      callBlock .shuf (dig.take Config.nsym) s6) (encrypted plain) NoFault := by
  have hcut (v : Nat) : (cutWords 6 v 31).take Config.nsym = cutWords 6 v 30 := by
    rw [cutWords_succ]
    exact List.take_left' (length_cutWords ..)
  have hlenEnc : (cipherAnswer 1 plain).length = 23 := (length_cipherAnswer 1 hds (by omega)).trans hlen
  refine (callCiphEnc_returns h hlen hds).bind fun s5 h5 => ?_
  refine (contract_returns h5 hlenEnc (digitsBelow_cipherAnswer 1 hds (by omega))).bind fun s6 h6 => ?_
  change Returns (callBlock .shuf ((cutWords 6 _ 31).take Config.nsym) s6) _ _
  rw [hcut]
  exact callShuf_returns h6 (length_cutWords ..) (cutWords_below _ _ _)

/-- `PW.ENCODE` up to the password in wire order. -/
theorem encodePassword_returns {s : State} (h : NoFault s) (r : Record) (keep : Bool) :
    Returns (encodePassword r keep s) (encrypted (r.plainWith (r.checksumWord keep))) NoFault := by
  have hlen : (r.plainWith (r.checksumWord keep)).length = 23 := congrArg (· + 1) r.length_body
  have hds := r.plainWith_below (r.checksumWord_lt keep)
  refine (encodeFields_returns r h).bind fun s2 h2 => ?_
  cases keep
  · exact (callChksum_returns h2 r.length_body r.body_below).bind fun s3 h3 => encryptCalls_returns h3 hlen hds
  · exact encryptCalls_returns h2 hlen hds

/-! ## The pipelines on texts -/

/-- The text of a password in wire order. -/
def wireText (wire : List Word) : List Char := showText (wire.map fun w => Fin.ofNat 64 w.toNat)

theorem pwEncode_returns {s : State} (h : NoFault s) (r : Record) (keep : Bool) :
    Returns (pwEncode r keep s) (wireText (encrypted (r.plainWith (r.checksumWord keep)))) NoFault :=
  (encodePassword_returns h r keep).bind fun _ ht => Returns.done ht

theorem length_wireText (wire : List Word) : (wireText wire).length = 2 * wire.length := by
  rw [wireText, length_showText, List.length_map]

section Texts

variable {text : List Char} {symbols : List Symbol}

/-- The indices of the symbols, each in a data word. -/
def wireOf (symbols : List Symbol) : List Word := seqResult (symbols.map Fin.val)

theorem indices_lt (symbols : List Symbol) : ∀ d ∈ symbols.map Fin.val, d < 64 :=
  List.forall_mem_map.mpr fun i _ => i.isLt

/-- A symbol's index names the symbol again. -/
theorem wireText_wireOf (symbols : List Symbol) : wireText (wireOf symbols) = showText symbols := by
  have hsymbol (i : Symbol) : Fin.ofNat 64 (toWord i.val).toNat = i := by
    refine Fin.ext ?_
    have := i.isLt
    simp only [Fin.ofNat, toWord, BitVec.toNat_ofNat]
    omega
  rw [wireText, wireOf, seqResult, List.map_map, List.map_map]
  exact congrArg showText ((List.map_congr_left fun i _ => hsymbol i).trans (List.map_id _))

/-- `PW.DECODE` of a text that parses: the Record holds the decrypted bytes. -/
theorem pwDecode_returns {s : State} (hparse : parseText text = .ok symbols) (h : NoFault s) :
    ∃ r, Returns (pwDecode text s) r NoFault ∧ r.plainWith r.storedWord = decrypted (wireOf symbols) := by
  rw [pwDecode, hparse]
  exact decodePassword_returns h ((List.length_map _).trans (length_of_parseText hparse)) (indices_lt symbols)

/-- A text that does not parse stops `PW.DECODE` before its first operation. -/
theorem pwDecode_error {e : SoftwareError} (hparse : parseText text = .error e) (s : State) :
    pwDecode text s = .error e := by
  rw [pwDecode, hparse]
  rfl

end Texts

/-- Settles O58: every operation of either pipeline returns, and the next one starts with no fault recorded. -/
theorem pipelineMacrosNeverFaultTheBlock : Obligations.PipelineMacrosNeverFaultTheBlock := by
  refine ⟨fun text symbols s hparse h => ?decoded, fun text e s hparse => ?refused, fun r keep s h => ?encoded⟩
  case decoded =>
    obtain ⟨r, ⟨t, hrun, ht⟩, -⟩ := pwDecode_returns hparse h
    exact ⟨r, t, hrun, ht⟩
  case refused => exact ⟨pwDecode_error hparse s, parseText_error hparse⟩
  case encoded =>
    obtain ⟨t, hrun, ht⟩ := pwEncode_returns h r keep
    exact ⟨_, t, hrun, by rw [length_wireText, length_encrypted], ht⟩

/-- Settles O57: the Record holds the decrypted bytes, and encrypting them leads back to the password. -/
theorem passwordRoundTrip : Obligations.PasswordRoundTrip := by
  intro text symbols s u hparse hs hu
  have hlen : (wireOf symbols).length = 30 := by
    rw [wireOf, seqResult, List.length_map, List.length_map, length_of_parseText hparse]
  obtain ⟨r, ⟨s', hdecode, -⟩, hplain⟩ := pwDecode_returns hparse hs
  obtain ⟨u', hencode, -⟩ := pwEncode_returns hu r true
  refine ⟨r, s', u', hdecode, hencode.trans ?_⟩
  rw [Record.checksumWord, if_pos rfl, hplain, encrypted_decrypted hlen (digitsBelow_seqResult (indices_lt symbols)),
    wireText_wireOf]

end Machine
end Sys2Proof
end

section
/-!
PROOFS. The fault mechanism (spec/60_exceptions.md rules R260 to R264): what a recorded fault refuses, what fault entry
writes, and what clears the record.
-/

namespace Sys2Proof
namespace Machine

section Faults

variable {s t : State} {i : Instr} {w : Word} {p : List Word} {rest : List HostMove}

/-! ## STAT with a payload (R82, R261) -/

/-- With no fault recorded the payload is a fault like any other. -/
theorem execStat_of_payload (h : s.faultCode = 0#8) (hp : s.payload ≠ []) :
    exec .stat s = .next (s.faultTaken 3#8) := by
  change execStat s = _
  rw [execStat, State.payloadGiven_eq_true.mpr hp, State.faulted, h]
  rfl

/-- While a fault is recorded the payload is refused without a second record. -/
theorem execStat_of_payload_faulted (h : s.faultCode ≠ 0#8) (hp : s.payload ≠ []) :
    exec .stat s = .next (s.turnedAway 3#8) := by
  change execStat s = _
  rw [execStat, State.payloadGiven_eq_true.mpr hp, s.faulted_iff.mpr h]
  rfl

/-! ## While a fault is recorded (R263) -/

theorem exec_of_faulted (h : s.faultCode ≠ 0#8) (hi : i ≠ .stat) : exec i s = .next (s.turnedAway 7#8) := by
  cases i
  case stat => exact absurd rfl hi
  all_goals exact operate_of_faulted h _ _ _

/-- An illegal word is refused like a legal one: the record is tested before the word (R261). -/
theorem step_of_faulted (hin : s.inbox = .transaction w p :: rest) (h : s.faultCode ≠ 0#8) (hw : w ≠ 0#32) :
    step s = .next ((s.latched w p rest).turnedAway 7#8) := by
  rcases hd : decode w with e | i
  · exact (step_of_illegal hin hd).trans (operate_of_faulted (s := s.latched w p rest) h _ _ _)
  · have hi : i ≠ .stat := by
      rintro rfl
      exact hw ((decode_eq_stat_iff w).mp hd)
    exact (step_of_legal hin hd).trans (exec_of_faulted (s := s.latched w p rest) h hi)

/-- The word 0 is `STAT`, faulted or not. -/
theorem step_of_statWord (hin : s.inbox = .transaction w p :: rest) (hw : w = 0#32) :
    step s = exec .stat (s.latched w p rest) :=
  step_of_legal hin ((decode_eq_stat_iff w).mpr hw)

/-- The flags of the first status word stand above `FAULT.CODE` (R211). -/
theorem State.statusWord_low (s : State) : s.statusWord.setWidth 8 = s.faultCode := by
  have hlt := s.faultCode.isLt
  apply BitVec.eq_of_toNat_eq
  rw [State.statusWord_eq, BitVec.toNat_setWidth, toWord, BitVec.toNat_ofNat]
  omega

/-- Whatever the transaction, a block with a fault recorded only responds. -/
theorem step_of_faulted_responds (hin : s.inbox = .transaction w p :: rest) (h : s.faultCode ≠ 0#8) :
    ∃ st ws, step s = .next ((s.latched w p rest).respond st ws) := by
  by_cases hw : w = 0#32
  · rw [step_of_statWord hin hw]
    by_cases hp : p = []
    · exact ⟨_, _, execStat_performed (s := s.latched w p rest) hp⟩
    · exact ⟨_, _, execStat_of_payload_faulted (s := s.latched w p rest) h hp⟩
  · exact ⟨_, _, step_of_faulted hin h hw⟩

/-! ## Fault entry (R262) -/

/-- An operation that leaves a fault recorded, and whose effect records none, took the fault of a failing check. -/
theorem operate_raised {cs : List Check} {d : State} {ws : List Word} (h : s.faultCode = 0#8)
    (hop : operate s cs d ws = .next t) (hd : d.faultCode = s.faultCode) (ht : t.faultCode ≠ 0#8) :
    ∃ c : FaultCode, t = s.faultTaken c.code := by
  rcases operate_cases s cs d ws with ⟨hfaulted, -⟩ | ⟨-, c, -, hraised⟩ | ⟨-, -, hdone⟩
  · exact absurd h hfaulted
  · exact ⟨c, Host.Outcome.next.inj (hop.symm.trans hraised)⟩
  · obtain rfl := Host.Outcome.next.inj (hop.symm.trans hdone)
    exact absurd (hd.trans h) ht

theorem execStat_raised (h : s.faultCode = 0#8) (hexec : exec .stat s = .next t) (ht : t.faultCode ≠ 0#8) :
    ∃ c : FaultCode, t = s.faultTaken c.code := by
  by_cases hp : s.payload = []
  · obtain rfl := Host.Outcome.next.inj (hexec.symm.trans (execStat_performed hp))
    exact absurd h ht
  · exact ⟨.badLength, Host.Outcome.next.inj (hexec.symm.trans (execStat_of_payload h hp))⟩

/-- No operation's effect writes `FAULT.CODE`: each is on one unit, or on none. -/
theorem exec_raised (h : s.faultCode = 0#8) (hexec : exec i s = .next t) (ht : t.faultCode ≠ 0#8) :
    ∃ c : FaultCode, t = s.faultTaken c.code := by
  cases i
  case stat => exact execStat_raised h hexec ht
  all_goals exact operate_raised h hexec rfl ht

theorem step_raised (hin : s.inbox = .transaction w p :: rest) (h : s.faultCode = 0#8) (hs : step s = .next t)
    (ht : t.faultCode ≠ 0#8) : ∃ c : FaultCode, t = (s.latched w p rest).faultTaken c.code := by
  rcases hd : decode w with e | i
  · exact operate_raised (s := s.latched w p rest) h ((step_of_illegal hin hd).symm.trans hs) rfl ht
  · exact exec_raised (s := s.latched w p rest) h ((step_of_legal hin hd).symm.trans hs) ht

end Faults

/-! ## The statements -/

/-- Settles O40: by the record, which decides between a fault and an answer only. -/
theorem statWithPayloadIsRefused : Obligations.StatWithPayloadIsRefused :=
  ⟨fun _ h hp => execStat_of_payload h hp, fun _ h hp => execStat_of_payload_faulted h hp⟩

/-- Settles O9: every meaning but that of `STAT` tests the record first, and `STAT` without a payload tests nothing. -/
theorem faultedBlockRefusesAllButStat : Obligations.FaultedBlockRefusesAllButStat := by
  intro s w p rest hin h
  refine ⟨fun hw => step_of_faulted hin h hw, fun hw hp => ⟨(s.latched w p rest).statusWord, ?code, ?answer⟩⟩
  case code => exact (s.latched w p rest).statusWord_low
  case answer => exact (step_of_statWord hin hw).trans (execStat_performed (s := s.latched w p rest) hp)

/-- Settles O10: the only way to a record is a failing check, and its code is one of the six causes. -/
theorem faultsArePreciseAndAtomic : Obligations.FaultsArePreciseAndAtomic := by
  intro s t w p rest hin h hs ht
  obtain ⟨c, hc⟩ := step_raised hin h hs ht
  obtain ⟨hlow, hhigh⟩ := c.code_range
  exact ⟨c.code, hlow, hhigh, hc⟩

/-- Settles O11: by the host's next move; an idle step changes nothing, and a transaction only adds a response. -/
theorem onlyResetClearsTheFaultRecord : Obligations.OnlyResetClearsTheFaultRecord := by
  intro s t hs h
  rcases hin : s.inbox with _ | ⟨⟨w, p⟩ | _, rest⟩
  case nil =>
    obtain rfl := Host.Outcome.next.inj ((step_of_idle hin).symm.trans hs)
    exact ⟨fun _ => ⟨rfl, rfl, rfl, rfl, rfl, rfl, rfl⟩, nofun⟩
  case cons.transaction =>
    obtain ⟨st, ws, hresponds⟩ := step_of_faulted_responds hin h
    obtain rfl := Host.Outcome.next.inj (hresponds.symm.trans hs)
    exact ⟨fun _ => ⟨rfl, rfl, rfl, rfl, rfl, rfl, rfl⟩, nofun⟩
  case cons.reset =>
    obtain rfl := Host.Outcome.next.inj ((step_of_reset hin).symm.trans hs)
    exact ⟨fun hne => absurd rfl (hne rest), fun _ _ => ⟨rfl, rfl, rfl, rfl, rfl, rfl, rfl⟩⟩

end Machine
end Sys2Proof
end

section
/-!
PROOFS. The block at rest: the state it starts in (spec/10_state.md section 11), a reset and an idle host
(spec/70_reset_and_hazards.md rules R290 and R296), and command words printed in the spec's vectors.
-/

namespace Sys2Proof

/-- Settles O5: each word is its operation's encoding, which the decoder reads back. -/
theorem specCommandWordsDecode : Obligations.SpecCommandWordsDecode :=
  ⟨decode_of_encode_eq (i := .stat) rfl rfl, decode_of_encode_eq (i := .rdLoad 6) rfl rfl,
    decode_of_encode_eq (i := .rdRead 8) rfl rfl, decode_of_encode_eq (i := .wrWrite 32) rfl rfl,
    decode_of_encode_eq (i := .bitpack 6 8) rfl rfl, decode_of_encode_eq (i := .shuf) rfl rfl,
    decode_of_encode_eq (i := .genSeed 123) rfl rfl, decode_of_encode_eq (i := .ciphDec) rfl rfl,
    decode_of_encode_eq (i := .chkUpd 1) rfl rfl, decode_of_encode_eq (i := .crcUpd 0x31) rfl rfl⟩

namespace Machine

/-- Settles O7: the step's equation for an idle host. -/
theorem idleBlockKeepsItsState : Obligations.IdleBlockKeepsItsState :=
  fun _ hin => step_of_idle hin

/-- Settles O12: the step is `State.resetBlock`, which closes every unit and leaves the host's traffic alone. -/
theorem resetMoveClearsFlagsAndRecord : Obligations.ResetMoveClearsFlagsAndRecord := by
  intro s rest hin
  refine ⟨_, step_of_reset hin, Reader.unspecified_valid _, Writer.unspecified_valid _, Generator.unspecified_valid _,
    Checksum.unspecified_valid _, Crc.unspecified_valid _, ?code, ?fcmd, ?inbox, ?outbox⟩
  case code => exact State.resetBlock_faultCode _
  case fcmd => exact State.resetBlock_fcmd _
  case inbox => exact State.resetBlock_inbox _
  case outbox => exact State.resetBlock_outbox _

/-- The invariant asks nothing of a unit that is not valid, so a state with every unit closed, no fault recorded and no
response given satisfies it whatever its unspecified registers hold. -/
theorem State.inv_of_closed {s : State} (hrd : s.rd.valid = false) (hwr : s.wr.valid = false)
    (hgen : s.gen.valid = false) (hchk : s.chk.valid = false) (hcode : s.faultCode = 0#8) (hfcmd : s.fcmd = 0#32)
    (hout : s.outbox = []) : s.Inv where
  rd hvalid := absurd hvalid (Bool.eq_false_iff.mp hrd)
  wr hvalid := absurd hvalid (Bool.eq_false_iff.mp hwr)
  gen hvalid := absurd hvalid (Bool.eq_false_iff.mp hgen)
  chk hvalid := absurd hvalid (Bool.eq_false_iff.mp hchk)
  record := ⟨hcode ▸ Nat.zero_le 6, fun _ => hfcmd⟩
  responses _ hr := absurd (hout ▸ hr) List.not_mem_nil

/-- Settles O14: from the values that the spec gives the reset state, not from those the model chooses (log entry 1). -/
theorem resetStateSatisfiesInvariant : Obligations.ResetStateSatisfiesInvariant := by
  obtain ⟨hrd, hwr, hgen, hchk, -, hcode, hfcmd⟩ := resetStateHasSpecifiedValues
  exact State.inv_of_closed hrd hwr hgen hchk hcode hfcmd rfl

end Machine
end Sys2Proof
end
